-- ==== Sys2Proof/Word.lean ====
section
/-! DEFINITION. The word types of the HCB (00_scope.md rules R8 and R10). -/

namespace Sys2Proof

/-- A register or bus word: 32 bits, bit 31 the most significant (rules R8, R10). -/
abbrev Word := BitVec 32

/-- The 16-bit fields of `WIDTH`, `HEIGHT`, `KEYLEN` and `KPHASE` (rules R8, R31, R32, R38, R39). -/
abbrev Half := BitVec 16

/-- An 8-bit field: `STATUS.ERRCODE` and `STATUS.ERRCMD` (rule R24). -/
abbrev Byte := BitVec 8

/-- A pixel: three 8-bit channels, red [23:16], green [15:8], blue [7:0] (rules R8, R42). -/
abbrev Pixel := BitVec 24

/-- A byte offset within the 64 MiB window of the host's address space (rule R60). -/
abbrev Offset := BitVec 26

end Sys2Proof
end

