-- ==== Sys2Proof/Config.lean ====
section
/-! DEFINITION. What an implementation fixes (the parameters of 00_scope.md rule R7, and the platform's choices) and
the values the spec leaves free. -/

namespace Sys2Proof

/-- The four implementation parameters of rule R7. State carries them (the `PARAM_*` registers of rule R37), so a
claim about every state is a claim about every choice of them (log 1). -/
structure Params where
  /-- `NB`: size of BITMEM in bits. -/
  nb : Nat
  /-- `NP`: size of PIXMEM in pixels. -/
  np : Nat
  /-- `CMAX`: size of STAGE in pixels, the largest frame capacity FPUSH accepts. -/
  cmax : Nat
  /-- `KMAX`: size of the key register in bits. -/
  kmax : Nat
deriving DecidableEq, Repr

/-- The default values of rule R7. -/
def Params.default : Params := { nb := 4194304, np := 4194304, cmax := 2097152, kmax := 256 }

/-- Which 64 MiB page of the host's address space the platform puts the window in; free (rule R60, D4, log 2). -/
opaque Config.hcbBasePage : Nat

/-- `HCB_BASE`, a multiple of 2^26 (rule R60, D4). -/
def Config.hcbBase : Nat := 67108864 * Config.hcbBasePage

/-- `HCB_IRQ`, the interrupt input the `irq` line drives; the platform's, free (rule R168, D18, log 2). -/
opaque Config.hcbIrq : Nat

/-- The host byte address of a window offset (rules R60, R63). -/
def Config.hostAddress (off : Offset) : Nat := Config.hcbBase + off.toNat

/-- The free value a read of an unspecified BITMEM bit gives: draw number, bit index (rule R51, log 5). -/
opaque Config.freeBit : Nat → Nat → Bool

/-- The free value a read of an unspecified PIXMEM pixel gives: draw number, pixel index (rule R51, log 5). -/
opaque Config.freePixel : Nat → Nat → Pixel

/-- The free value a read of an unspecified STAGE pixel gives: draw number, pixel index (rule R51, log 5). -/
opaque Config.freeStaged : Nat → Nat → Pixel

/-- The free number of exempt host accesses performed between the acceptance of a command and its engine step: the
unspecified finite delay of rule R189 (I6, log 4). The argument is the draw number. -/
opaque Config.freeDelay : Nat → Nat

end Sys2Proof
end

