-- ==== Sys2Proof/Syntax.lean ====
section
/-! DEFINITION. The commands of the HCB: one constructor per row of spec/opcode_table.json (30_encoding.md rule R82).
A command word carries no operand (rule R81): every operand is a register, read when the command runs. -/

namespace Sys2Proof

/-- The eleven commands of rule R82. -/
inductive Instr where
  /-- NOP, no operation (rule R153). -/
  | nop
  /-- SUB, pairwise substitution (rule R105). -/
  | sub
  /-- XOR, keyed stream cipher (rule R106). -/
  | xor
  /-- ENC, encode order: substitution, then stream cipher (rule R107). -/
  | enc
  /-- DEC, decode order: stream cipher, then substitution (rule R108). -/
  | dec
  /-- B2P, bits to pixels (rule R120). -/
  | b2p
  /-- P2B, pixels to bits by the binary threshold (rule R121). -/
  | p2b
  /-- SPLIT, cut a pixel sequence into frames and pad the last (rule R131). -/
  | split
  /-- FPUSH, place one staged frame at the slot of its index (rule R132). -/
  | fpush
  /-- MERGE, check the pushed indices and yield the concatenated frames (rule R133). -/
  | merge
  /-- FCLR, clear the frame bookkeeping (rule R134). -/
  | fclr
deriving DecidableEq, Repr

end Sys2Proof
end

