-- ==== Sys2Proof/WellFormed.lean ====
section
/-! DEFINITION. What is well formed: the implementation parameters (00_scope.md rule R7), a command word
(30_encoding.md rules R80, R84) and a command. -/

namespace Sys2Proof

/-- The constraints of rule R7 on the implementation parameters. -/
abbrev Params.wf (p : Params) : Prop :=
  (p.nb % 32 = 0 ∧ 32 ≤ p.nb ∧ p.nb ≤ 134217728) ∧
  (1 ≤ p.np ∧ p.np ≤ 4194304) ∧
  (1 ≤ p.cmax ∧ p.cmax ≤ p.np ∧ p.cmax ≤ 4194304) ∧
  (p.kmax % 32 = 0 ∧ 32 ≤ p.kmax ∧ p.kmax ≤ 2048)

/-- The operation codes of rule R82. -/
def definedOpcodes : List Byte :=
  [0x00#8, 0x01#8, 0x02#8, 0x03#8, 0x04#8, 0x10#8, 0x11#8, 0x20#8, 0x21#8, 0x22#8, 0x23#8]

/-- `OPC`, bits [7:0] of a command word (rule R80). -/
def opcField (w : Word) : Byte := w.extractLsb' 0 8

/-- `RSV`, bits [31:8] of a command word (rule R80). -/
def rsvField (w : Word) : BitVec 24 := w.extractLsb' 8 24

/-- A command word that is not illegal: `RSV = 0` and `OPC` one of the eleven values (rule R84). -/
abbrev wordWf (w : Word) : Prop := rsvField w = 0#24 ∧ opcField w ∈ definedOpcodes

/-- Every command is well formed: it has no operand whose value could be wrong (rule R81). -/
def Instr.wf : Instr → Bool
  | .nop => true
  | .sub => true
  | .xor => true
  | .enc => true
  | .dec => true
  | .b2p => true
  | .p2b => true
  | .split => true
  | .fpush => true
  | .merge => true
  | .fclr => true

end Sys2Proof
end

