-- ==== Sys2Proof/Decode.lean ====
section
/-! DEFINITION. Decoding a command word and encoding a command (30_encoding.md rules R80 to R84). -/

namespace Sys2Proof

/-- Why a word is ILLEGAL (rule R84). Both reasons lead to the same error, ILLEGAL_CMD. -/
inductive DecodeError where
  /-- `RSV`, bits [31:8], is not 0. -/
  | reservedBitsSet
  /-- `RSV = 0` and `OPC` is none of the eleven values of rule R82. -/
  | undefinedOpcode
deriving DecidableEq, Repr

/-- The command of an operation code, by the opcode map of rule R82. -/
def commandOf (opc : Byte) : Option Instr :=
  if opc = 0x00#8 then some .nop
  else if opc = 0x01#8 then some .sub
  else if opc = 0x02#8 then some .xor
  else if opc = 0x03#8 then some .enc
  else if opc = 0x04#8 then some .dec
  else if opc = 0x10#8 then some .b2p
  else if opc = 0x11#8 then some .p2b
  else if opc = 0x20#8 then some .split
  else if opc = 0x21#8 then some .fpush
  else if opc = 0x22#8 then some .merge
  else if opc = 0x23#8 then some .fclr
  else none

/-- `decode(w)` of rule R83, total on every word; an error is ILLEGAL. -/
def decode (w : Word) : Except DecodeError Instr :=
  if rsvField w ≠ 0#24 then .error .reservedBitsSet
  else
    match commandOf (opcField w) with
    | some i => .ok i
    | none => .error .undefinedOpcode

/-- The operation code of a command (rule R82). -/
def opcode : Instr → Byte
  | .nop => 0x00#8
  | .sub => 0x01#8
  | .xor => 0x02#8
  | .enc => 0x03#8
  | .dec => 0x04#8
  | .b2p => 0x10#8
  | .p2b => 0x11#8
  | .split => 0x20#8
  | .fpush => 0x21#8
  | .merge => 0x22#8
  | .fclr => 0x23#8

/-- The command word of a command: `OPC` in [7:0], `RSV = 0` above it (rules R80, R82). -/
def encode (i : Instr) : Word := 0#24 ++ opcode i

/-- The command a word of `nbits` bits stands for, as spec/opcode_table.json numbers its bits. A command word is one
32-bit bus word (rule R80), so a value that does not fit 32 bits is no command word. -/
def decodeTableWord (nbits w : Nat) : Option Instr :=
  if w % 2 ^ nbits < 4294967296 then
    match decode (BitVec.ofNat 32 (w % 2 ^ nbits)) with
    | .ok i => some i
    | .error _ => none
  else none

end Sys2Proof
end

