-- ==== Sys2Proof/Machine/State.lean ====
section
/-! DEFINITION. The state of the HCB (10_state.md), the host's inputs and the bus answers (20_memory.md), and the
reasons a step can stop. Everything is plain data. -/

namespace Sys2Proof.Machine

/-- A memory of elements: (index, value) pairs, indices strictly rising. An index that is not listed holds an
unspecified value (rule R51, log 6). BITMEM, PIXMEM and STAGE are arrays of elements, not of bytes (rule R69). -/
abbrev Memory (α : Type) := List (Nat × α)

/-- The canonical form of a memory of `size` elements: indices strictly rising and below `size`. -/
abbrev Memory.wf {α : Type} (size : Nat) (m : Memory α) : Prop :=
  (m.map Prod.fst).Pairwise (· < ·) ∧ ∀ c ∈ m, c.1 < size

/-- The registers of the register page (rule R21). -/
inductive Reg where
  | id | ctrl | status | irqEn | cmd
  | src | dst | len | olen
  | width | height | fill | fidx | fcount | errInfo
  | keylen | kphase
  | paramNB | paramNP | paramCMAX | paramKMAX
  /-- `KEY<n>` -/
  | key (n : Nat)
deriving DecidableEq, Repr

/-- What a mapped window offset names (rule R60). -/
inductive Place where
  | reg (r : Reg)
  /-- BITMEM word `w`: bits 32w .. 32w+31. -/
  | bitWord (w : Nat)
  /-- PIXMEM pixel `p`. -/
  | pixel (p : Nat)
  /-- STAGE pixel `s`. -/
  | staged (s : Nat)
deriving DecidableEq, Repr

/-- What reaches the HCB from outside, one event at a time (rules R70, R86, R180, R188). -/
inductive HostInput where
  /-- A bus read of `width` bytes at a window offset. -/
  | read (width : Nat) (off : Offset)
  /-- A bus write of `width` bytes at a window offset. Only the 32-bit write is accepted (rule R67), so the data is a
  word. -/
  | write (width : Nat) (off : Offset) (v : Word)
  /-- The platform's power-on reset (rule R180, log 13). -/
  | powerOn
  /-- `WAIT`: the host reads `STATUS` until bit 0 (BUSY) reads 0; each read is one event, and the input stays at the
  head until that read (rule R86, log 3). -/
  | wait
deriving DecidableEq, Repr

/-- The answer to an accepted host access (rule R68). -/
inductive Reply where
  /-- The word a read returns. -/
  | data (v : Word)
  /-- A write was performed. -/
  | written
deriving DecidableEq, Repr

/-- The error codes of rule R161 that a command can raise. -/
inductive ErrorCode where
  | illegalCmd | keyInvalid | badGeometry | range | overlap | frameIndexRange | duplicateFrame | missingFrame
deriving DecidableEq, Repr

/-- The error of a command: `Error(code, info)` (rules R13, R161). -/
structure CmdError where
  code : ErrorCode
  info : Word
deriving DecidableEq, Repr

/-- The destination elements of a command (rule R69). -/
inductive Dest where
  /-- No element. -/
  | none
  /-- BITMEM bits `base .. base + n`. -/
  | bits (base n : Nat)
  /-- PIXMEM pixels `base .. base + n`. -/
  | pixels (base n : Nat)
deriving DecidableEq, Repr

/-- The state of the HCB, with the host's pending accesses and the answers given to them. -/
structure State where
  /-- The implementation parameters, read in `PARAM_NB`, `PARAM_NP`, `PARAM_CMAX`, `PARAM_KMAX` (rule R37); constant. -/
  params : Params
  /-- `STATUS.DONE` (rule R24). -/
  done : Bool
  /-- `STATUS.ERR` (rule R24). -/
  err : Bool
  /-- `STATUS.ERRCODE` (rule R24). -/
  errCode : Byte
  /-- `STATUS.ERRCMD` (rule R24). -/
  errCmd : Byte
  /-- `IRQ_EN.DONE_IE` (rule R25). -/
  doneIE : Bool
  /-- `IRQ_EN.ERR_IE` (rule R25). -/
  errIE : Bool
  /-- `SRC` (rule R27). -/
  src : Word
  /-- `DST` (rule R28). -/
  dst : Word
  /-- `LEN` (rule R29). -/
  len : Word
  /-- `OLEN` (rule R30). -/
  olen : Word
  /-- `WIDTH.W` (rule R31). -/
  width : Half
  /-- `HEIGHT.H` (rule R32). -/
  height : Half
  /-- `FILL` (rule R33). -/
  fill : Pixel
  /-- `FIDX` (rule R34). -/
  fidx : Word
  /-- `FCOUNT` (rule R35). -/
  fcount : Word
  /-- `ERRINFO` (rule R36). -/
  errInfo : Word
  /-- `KEYLEN.L` (rule R38). -/
  keylen : Half
  /-- `KPHASE` (rule R39). -/
  kphase : Half
  /-- `KEY<n>` for 0 ≤ n < KMAX/32, `KEY0` first (rule R40). -/
  key : List Word
  /-- BITMEM: `BIT(i)` (rule R41). -/
  bitmem : Memory Bool
  /-- PIXMEM: `PIX(p)` (rule R42). -/
  pixmem : Memory Pixel
  /-- STAGE: `STG(s)` (rule R43). -/
  stage : Memory Pixel
  /-- The frame presence map: the `f` with `PRESENT(f) = 1`, in rising order (rule R44). -/
  present : List Nat
  /-- The latched capacity `PCAP` (rule R45). -/
  pcap : Word
  /-- The command in flight; `STATUS.BUSY = 1` exactly while there is one (rules R24, R46, log 9). -/
  inflight : Option Word
  /-- The model's own: exempt host accesses still to go before the engine step (rule R189, log 4). -/
  delay : Nat
  /-- The model's own: how many free values have been drawn (rule R51, log 5). -/
  draws : Nat
  /-- The model's own: the inputs not yet performed, oldest first (rule R70, log 3). -/
  host : List HostInput
  /-- The model's own: the answers given, newest first (rule R68, log 3). -/
  replies : List Reply
deriving DecidableEq, Repr

/-- The power-on state of an HCB with parameters `p` (rules R50, R181): every register at the value of rule R21's
table, every memory element unspecified. -/
def State.powerOn (p : Params) : State where
  params := p
  done := false
  err := false
  errCode := 0#8
  errCmd := 0#8
  doneIE := false
  errIE := false
  src := 0#32
  dst := 0#32
  len := 0#32
  olen := 0#32
  width := 0#16
  height := 0#16
  fill := 0#24
  fidx := 0#32
  fcount := 0#32
  errInfo := 0#32
  keylen := 0#16
  kphase := 0#16
  key := List.replicate (p.kmax / 32) 0#32
  bitmem := []
  pixmem := []
  stage := []
  present := []
  pcap := 0#32
  inflight := none
  delay := 0
  draws := 0
  host := []
  replies := []

/-- The machine after power-on reset, with the default parameters of rule R7. -/
def State.reset : State := State.powerOn Params.default

/-- Why the machine stops: a bus error, which rule R62 has a model treat as a fault of the host agent (log 8). Raised
by the host's access only, never by a command; the HCB's state is as before the access. Safe: on the hardware the
host gets an error answer and may go on. -/
inductive Fault where
  /-- The offset maps no element (rule R62). Raised by `hostInput`. Safe. -/
  | busErrorUnmapped
  /-- The access is not 32 bits wide (rule R67). Raised by `hostInput`. Safe. -/
  | busErrorWidth
  /-- The offset is not a multiple of 4 (rule R67). Raised by `hostInput`. Safe. -/
  | busErrorMisaligned
deriving DecidableEq, Repr

/-- Why a command has no meaning. -/
inductive Refusal where
  /-- The command has no meaning in this model. Raised by `exec`'s refused arms only, of which there is none. Safe. -/
  | notModelled (mnemonic : String)
deriving DecidableEq, Repr

end Sys2Proof.Machine
end

