-- ==== Sys2Proof/Machine/Memory.lean ====
section
/-! DEFINITION. Reading and writing ranges of memory elements. The engine addresses elements by index (20_memory.md
rule R69); a host word of BITMEM is a range of 32 bits (rule R64). -/

namespace Sys2Proof.Machine

/-- What the memory holds at an index; `none` is an unspecified value (rule R51). -/
def Memory.get {α : Type} (a : Nat) : Memory α → Option α
  | [] => none
  | (k, v) :: rest => if k = a then some v else Memory.get a rest

/-- The specified values among `vs` at the indices from `base` on. -/
def Memory.listed {α : Type} (base : Nat) : List (Option α) → Memory α
  | [] => []
  | some v :: vs => (base, v) :: Memory.listed (base + 1) vs
  | none :: vs => Memory.listed (base + 1) vs

/-- The part of a memory below an index. -/
def Memory.below {α : Type} (m : Memory α) (hi : Nat) : Memory α := m.filter (fun c => decide (c.1 < hi))

/-- The part of a memory from an index on. -/
def Memory.above {α : Type} (m : Memory α) (lo : Nat) : Memory α := m.filter (fun c => decide (lo ≤ c.1))

/-- The memory after `vs` is stored at the indices from `base` on; `none` stores an unspecified value (rule R51). -/
def Memory.store {α : Type} (m : Memory α) (base : Nat) (vs : List (Option α)) : Memory α :=
  m.below base ++ (Memory.listed base vs ++ m.above (base + vs.length))

/-- The memory after the specified values `vs` are stored at the indices from `base` on. -/
def Memory.write {α : Type} (m : Memory α) (base : Nat) (vs : List α) : Memory α := m.store base (vs.map some)

/-- The memory after the `n` elements from `base` on have become unspecified (rule R183). -/
def Memory.forget {α : Type} (m : Memory α) (base n : Nat) : Memory α :=
  m.below base ++ m.above (base + n)

/-- `f base, f (base + 1), …`, `n` values: the sequence of elements a command reads. -/
def readRange {α : Type} (f : Nat → α) (base : Nat) : Nat → List α
  | 0 => []
  | n + 1 => f base :: readRange f (base + 1) n

/-- What a command stores for the result `out` of the source elements `src`: element `i` of `out` is specified exactly
where element `i` of the source is; computed from an unspecified element it is unspecified too (rule R51,
93_implementation_defined.md entry I3, log 5). -/
def resultElements {α β : Type} (src : List (Option α)) (out : List β) : List (Option β) :=
  List.zipWith (fun x v => x.map (fun _ => v)) src out

end Sys2Proof.Machine
end

