-- ==== Sys2Proof/Machine/Flags.lean ====
section
/-! DEFINITION. The `STATUS` and `IRQ_EN` words and the interrupt output (10_state.md rules R24, R25, 43_control.md
rule R156). -/

namespace Sys2Proof.Machine

/-- `STATUS.BUSY`: 1 from the acceptance of a command until its completion or error entry (rules R24, R46). -/
def State.busy (s : State) : Bool := s.inflight.isSome

/-- The `STATUS` word: BUSY [0], DONE [1], ERR [2], ERRCODE [15:8], ERRCMD [23:16], the rest 0 (rule R24). -/
def State.statusWord (s : State) : Word :=
  0#8 ++ s.errCmd ++ s.errCode ++ 0#5 ++ BitVec.ofBool s.err ++ BitVec.ofBool s.done ++ BitVec.ofBool s.busy

/-- The `IRQ_EN` word: DONE_IE [0], ERR_IE [1], the rest 0 (rule R25). -/
def State.irqEnWord (s : State) : Word := 0#30 ++ BitVec.ofBool s.errIE ++ BitVec.ofBool s.doneIE

/-- The level of the interrupt output (rule R156); no latch, no pending register. -/
def State.irq (s : State) : Bool := (s.done && s.doneIE) || (s.err && s.errIE)

/-- The number of an error code (rule R161). -/
def ErrorCode.byte : ErrorCode → Byte
  | .illegalCmd => 0x01#8
  | .keyInvalid => 0x02#8
  | .badGeometry => 0x03#8
  | .range => 0x04#8
  | .overlap => 0x05#8
  | .frameIndexRange => 0x06#8
  | .duplicateFrame => 0x07#8
  | .missingFrame => 0x08#8

end Sys2Proof.Machine
end

