-- ==== Sys2Proof/Machine/Operands.lean ====
section
/-! DEFINITION. The operands of the commands: elements, ranges, key bits, geometry (30_encoding.md rule R81), the bit
packing of words (20_memory.md rules R64 and R66), and the checks on operands (rules R104, R120, R121, R130 to R133).
Every index and length is an exact natural number (00_scope.md rule R11). -/

namespace Sys2Proof.Machine

/-- `lanebit(k)`: where bit `k` of a packed sequence of 32 stands in its word (rule R64). -/
def lanebit (k : Nat) : Nat := 8 * (k / 8) + 7 - k % 8

/-- The `n`-bit word whose bit `j` is `f j`. -/
def bitsToWord (f : Nat → Bool) : (n : Nat) → BitVec n
  | 0 => 0#0
  | n + 1 => BitVec.cons (f n) (bitsToWord f n)

/-- The word that holds the packed bit `k` in word bit `lanebit(k)`, as a BITMEM read gives it; `lanebit` is its own
inverse on 0..31 (rule R64). -/
def packWord (f : Nat → Bool) : Word := bitsToWord (fun j => f (lanebit j)) 32

/-- The 32 bits a written BITMEM word holds, first bit first (rule R64). -/
def unpackWord (v : Word) : List Bool := readRange (fun k => v.getLsbD (lanebit k)) 0 32

/-- Byte lane `k` of a bus word: bits [8k+7:8k], the byte at host address `HCB_BASE + a + k` of the word at offset `a`
(rule R63). Only whole words move (rule R67), so no access uses it. -/
def byteLane (v : Word) (k : Nat) : Byte := v.extractLsb' (8 * k) 8

/-- What a read of `BIT(a)` gives now: the bit the memory holds, or a free value (rules R41, R51). -/
def State.bit (s : State) (a : Nat) : Bool := (s.bitmem.get a).getD (Config.freeBit s.draws a)

/-- What a read of `PIX(p)` gives now (rules R42, R51). -/
def State.pix (s : State) (p : Nat) : Pixel := (s.pixmem.get p).getD (Config.freePixel s.draws p)

/-- What a read of `STG(k)` gives now (rules R43, R51). -/
def State.stg (s : State) (k : Nat) : Pixel := (s.stage.get k).getD (Config.freeStaged s.draws k)

/-- `KEYBIT(j) = KEY<j div 32>[lanebit(j mod 32)]` (rules R40, R66). -/
def State.keyBit (s : State) (j : Nat) : Bool := (s.key.getD (j / 32) 0#32).getLsbD (lanebit (j % 32))

/-- The frame capacity `C = W * H`, exact (rule R130). -/
def State.capacity (s : State) : Nat := s.width.toNat * s.height.toNat

/-- The information word of BAD_GEOMETRY: `(H << 16) | W` (rules R130, R161). -/
def State.geometryInfo (s : State) : Word := s.height ++ s.width

/-- The even part of `LEN`: `2 * floor(LEN / 2)` (rules R105, R107, R108). -/
def State.evenLen (s : State) : Nat := 2 * (s.len.toNat / 2)

/-- `CipherCheck(needkey, olen)` of rule R104: the first check that fails, in its order. -/
def cipherCheck (needKey : Bool) (olen : Nat) (s : State) : Option CmdError :=
  if needKey = true ∧ (s.keylen.toNat = 0 ∨ s.params.kmax < s.keylen.toNat) then
    some { code := .keyInvalid, info := s.keylen.setWidth 32 }
  else if needKey = true ∧ s.keylen.toNat ≤ s.kphase.toNat then
    some { code := .keyInvalid, info := 0x10000#32 ||| s.kphase.setWidth 32 }
  else if s.params.nb < s.src.toNat + s.len.toNat then
    some { code := .range, info := 0#32 }
  else if s.params.nb < s.dst.toNat + olen then
    some { code := .range, info := 1#32 }
  else if 0 < olen ∧ s.src.toNat < s.dst.toNat ∧ s.dst.toNat < s.src.toNat + s.len.toNat then
    some { code := .overlap, info := 0#32 }
  else none

/-- The checks of B2P and P2B: a source of `srcSize` elements, a destination of `dstSize` (rules R120, R121). -/
def rasterCheck (srcSize dstSize : Nat) (s : State) : Option CmdError :=
  if srcSize < s.src.toNat + s.len.toNat then
    some { code := .range, info := 0#32 }
  else if dstSize < s.dst.toNat + s.len.toNat then
    some { code := .range, info := 1#32 }
  else none

/-- `N = ceil(LEN / C)`, the frame count of SPLIT (rules R11, R131). -/
def State.splitCount (s : State) : Nat := (s.len.toNat + s.capacity - 1) / s.capacity

/-- The checks of SPLIT (rule R131). -/
def splitCheck (s : State) : Option CmdError :=
  if s.capacity = 0 then
    some { code := .badGeometry, info := s.geometryInfo }
  else if s.params.np < s.len.toNat then
    some { code := .range, info := 0#32 }
  else if s.params.np < s.splitCount * s.capacity then
    some { code := .range, info := 1#32 }
  else none

/-- `PRESENT(f) = 1` (rule R44). -/
def State.isPresent (s : State) (f : Nat) : Bool := s.present.contains f

/-- The checks of FPUSH (rule R132). -/
def fpushCheck (s : State) : Option CmdError :=
  if s.capacity = 0 ∨ s.params.cmax < s.capacity then
    some { code := .badGeometry, info := s.geometryInfo }
  else if s.pcap ≠ 0#32 ∧ s.capacity ≠ s.pcap.toNat then
    some { code := .badGeometry, info := s.geometryInfo }
  else if s.params.np < (s.fidx.toNat + 1) * s.capacity then
    some { code := .frameIndexRange, info := s.fidx }
  else if s.isPresent s.fidx.toNat = true then
    some { code := .duplicateFrame, info := s.fidx }
  else none

/-- `N` of MERGE: 0 if no frame is present, else 1 + the highest present index (rule R133). -/
def State.mergeCount (s : State) : Nat := s.present.foldr (fun f n => max (f + 1) n) 0

/-- The least of the `n` indices from `f` on that is not in the map, if there is one. -/
def leastAbsent (present : List Nat) : (n f : Nat) → Option Nat
  | 0, _ => none
  | n + 1, f => if present.contains f = true then leastAbsent present n (f + 1) else some f

/-- The checks of MERGE; the information word of MISSING_FRAME is `min { f < N : PRESENT(f) == 0 }` (rule R133). -/
def mergeCheck (s : State) : Option CmdError :=
  if s.capacity = 0 then
    some { code := .badGeometry, info := s.geometryInfo }
  else if s.pcap ≠ 0#32 ∧ s.capacity ≠ s.pcap.toNat then
    some { code := .badGeometry, info := s.geometryInfo }
  else
    match leastAbsent s.present s.mergeCount 0 with
    | some f => some { code := .missingFrame, info := BitVec.ofNat 32 f }
    | none => none

end Sys2Proof.Machine
end

