-- ==== Sys2Proof/Machine/Ops.lean ====
section
/-! DEFINITION. The shared operations of the commands: completion (43_control.md rule R152), the error entry, which
is the HCB's exception (60_exceptions.md rule R163), the error clear, which is the return from it (rule R165),
acceptance (rule R150), and the writes of the engine. -/

namespace Sys2Proof.Machine

/-- `STATUS.BUSY <- 0`: no command is in flight any more. -/
def clearBusy (s : State) : State := { s with inflight := none, delay := 0 }

/-- `complete()` of rule R152. -/
def complete (s : State) : State := { clearBusy s with done := true }

/-- The error entry of rule R163 for `raise Error(e.code, e.info)` in the engine step of command word `w`. DONE is
left as it is (acceptance cleared it); nothing else is written (rule R160). -/
def raiseError (w : Word) (e : CmdError) (s : State) : State :=
  { clearBusy s with err := true, errCode := e.code.byte, errCmd := w.extractLsb' 0 8, errInfo := e.info }

/-- The error clear of rule R165: the return from an error. -/
def clearError (s : State) : State := { s with err := false, errCode := 0#8, errCmd := 0#8, errInfo := 0#32 }

/-- Command acceptance of rule R150. While ERR = 1 the word is discarded without a trace. Acceptance does not
decode. The delay until the engine step is a free value (rule R189, log 4). -/
def acceptCommand (w : Word) (s : State) : State :=
  if s.err = true then s
  else { s with done := false, inflight := some w, delay := Config.freeDelay s.draws, draws := s.draws + 1 }

/-- The state in which word `w` is in flight and the engine moves next: what an accepted `CMD` write leads to, a
pending error having been cleared first (rules R150, R165, log 11). -/
def loadCommand (w : Word) (s : State) : State :=
  { clearError s with done := false, inflight := some w, delay := 0 }

/-- The free values one host read gives are numbered by the draw counter; this ends the read (log 5). -/
def tick (s : State) : State := { s with draws := s.draws + 1 }

/-- `BIT(base + i) <- vs[i]` for every `i`; `none` is an unspecified value (rule R51). -/
def writeBits (base : Nat) (vs : List (Option Bool)) (s : State) : State :=
  { s with bitmem := s.bitmem.store base vs }

/-- `PIX(base + i) <- vs[i]` for every `i`. -/
def writePixels (base : Nat) (vs : List (Option Pixel)) (s : State) : State :=
  { s with pixmem := s.pixmem.store base vs }

/-- `STG(base + i) <- vs[i]` for every `i`; only the host does this (rule R43). -/
def writeStaged (base : Nat) (vs : List (Option Pixel)) (s : State) : State :=
  { s with stage := s.stage.store base vs }

/-- `OLEN <- n`; `n` is below 2^32 wherever a rule writes it (rule R11). -/
def setOlen (n : Nat) (s : State) : State := { s with olen := BitVec.ofNat 32 n }

/-- `FCOUNT <- n`. -/
def setFcount (n : Nat) (s : State) : State := { s with fcount := BitVec.ofNat 32 n }

/-- The engine step of a command of this model: the error entry of the first failing check, or the command's effect
and `complete()`, all in one transition (rules R151, R160, R186). -/
def finish (i : Instr) (check : Option CmdError) (effect : State → State) (s : State) :
    Host.Outcome State Fault Refusal :=
  match check with
  | some e => .next (raiseError (encode i) e s)
  | none => .next (complete (effect s))

end Sys2Proof.Machine
end

