-- ==== Sys2Proof/Machine/Chunker.lean ====
section
/-! DEFINITION. The frame chunker commands SPLIT, FPUSH, MERGE and FCLR (42_chunker.md). -/

namespace Sys2Proof.Machine

/-- The first pixel of the slot of frame `f`: `f * C` (rule R130). -/
def State.frameSlot (s : State) (f : Nat) : Nat := f * s.capacity

/-- SPLIT: cut a pixel sequence into frames and pad the last with `FILL` (rule R131). -/
def execSplit (s : State) : Host.Outcome State Fault Refusal :=
  finish .split (splitCheck s)
    (fun s => setFcount s.splitCount (setOlen (s.splitCount * s.capacity)
      (writePixels s.len.toNat (List.replicate (s.splitCount * s.capacity - s.len.toNat) (some s.fill)) s))) s

/-- The presence map with `f` in it, kept in rising order. -/
def insertFrame (f : Nat) : List Nat → List Nat
  | [] => [f]
  | g :: rest => if f < g then f :: g :: rest else if f = g then g :: rest else g :: insertFrame f rest

/-- `PRESENT(f) <- 1`, and `PCAP <- C` if it was 0 (rule R132). -/
def recordFrame (f : Nat) (s : State) : State :=
  { s with present := insertFrame f s.present,
           pcap := if s.pcap = 0#32 then BitVec.ofNat 32 s.capacity else s.pcap }

/-- FPUSH: place one staged frame at the slot of its index; the pixels are copied as they are, an unspecified one too
(rules R132, R51). -/
def execFpush (s : State) : Host.Outcome State Fault Refusal :=
  finish .fpush (fpushCheck s)
    (fun s => setOlen s.capacity (recordFrame s.fidx.toNat
      (writePixels (s.frameSlot s.fidx.toNat) (readRange (fun k => s.stage.get k) 0 s.capacity) s))) s

/-- MERGE: check the pushed indices and yield the concatenated frames; no pixel moves (rule R133). -/
def execMerge (s : State) : Host.Outcome State Fault Refusal :=
  finish .merge (mergeCheck s) (fun s => setFcount s.mergeCount (setOlen (s.mergeCount * s.capacity) s)) s

/-- `PRESENT(f) <- 0` for every `f`, and `PCAP <- 0` (rule R134). -/
def clearFrames (s : State) : State := { s with present := [], pcap := 0#32 }

/-- FCLR: clear the frame bookkeeping (rule R134). -/
def execFclr (s : State) : Host.Outcome State Fault Refusal := finish .fclr none clearFrames s

end Sys2Proof.Machine
end

