-- ==== Sys2Proof/Machine/Cipher.lean ====
section
/-! DEFINITION. The cipher commands SUB, XOR, ENC and DEC (40_cipher.md). -/

namespace Sys2Proof.Machine

/-- The substitution table 00 to 11, 01 to 10, 10 to 01, 11 to 00, first bit first (rule R100). It complements each bit
(rule R109) and is written so, since the bit of one index must not wait for an unspecified neighbour (I3); `lut_table`
has the four rows. -/
def lut (a b : Bool) : Bool × Bool := (!a, !b)

/-- `Subst(s)`: the table over the non-overlapping pairs from index 0 on; a dangling last bit is dropped (rule
R101). -/
def subst : List Bool → List Bool
  | a :: b :: rest => (lut a b).1 :: (lut a b).2 :: subst rest
  | [_] => []
  | [] => []

/-- `ks(i) = KEYBIT((P + i) mod L)` (rule R102). -/
def keystream (s : State) (i : Nat) : Bool := s.keyBit ((s.kphase.toNat + i) % s.keylen.toNat)

/-- `XorStream(l)`: element `i` XOR `ks(i)` (rule R103). -/
def xorStream (s : State) (l : List Bool) : List Bool :=
  List.zipWith (fun b k => b ^^ k) l (readRange (keystream s) 0 l.length)

/-- What BITMEM holds in the source range, with the unspecified elements (rule R51). -/
def sourceElements (s : State) : List (Option Bool) := readRange (fun k => s.bitmem.get k) s.src.toNat s.len.toNat

/-- The source bits of a command, all read before any write: `[ BIT(SRC + i) for i in 0 .. LEN-1 ]` (rule R105). An
unspecified bit reads as some value, which no stored result keeps (rule R51, I3). -/
def sourceBits (s : State) : List Bool := readRange s.bit s.src.toNat s.len.toNat

/-- What the cipher commands share: the checks, then the output sequence `t` to `BIT(DST ..)` and its length to
`OLEN` (rules R104 to R108). Element `i` of `t` depends only on element `i` of the source (I3). -/
def cipherCommand (i : Instr) (needKey : Bool) (olen : Nat) (t : List Bool) (s : State) :
    Host.Outcome State Fault Refusal :=
  finish i (cipherCheck needKey olen s) (fun s => setOlen olen (writeBits s.dst.toNat (resultElements (sourceElements s) t) s)) s

/-- SUB: pairwise substitution (rule R105). -/
def execSub (s : State) : Host.Outcome State Fault Refusal :=
  cipherCommand .sub false s.evenLen (subst (sourceBits s)) s

/-- XOR: keyed stream cipher (rule R106). -/
def execXor (s : State) : Host.Outcome State Fault Refusal :=
  cipherCommand .xor true s.len.toNat (xorStream s (sourceBits s)) s

/-- ENC: substitution, then stream cipher; the keystream counts substituted bits (rule R107). -/
def execEnc (s : State) : Host.Outcome State Fault Refusal :=
  cipherCommand .enc true s.evenLen (xorStream s (subst (sourceBits s))) s

/-- DEC: stream cipher over all `LEN` bits, then substitution (rule R108). -/
def execDec (s : State) : Host.Outcome State Fault Refusal :=
  cipherCommand .dec true s.evenLen (subst (xorStream s (sourceBits s))) s

end Sys2Proof.Machine
end

