-- ==== Sys2Proof/Machine/Control.lean ====
section
/-! DEFINITION. The control command NOP (43_control.md rule R153). -/

namespace Sys2Proof.Machine

/-- NOP: `complete()` and nothing else (rule R153). -/
def execNop (s : State) : Host.Outcome State Fault Refusal := finish .nop none (fun s => s) s

end Sys2Proof.Machine
end

