-- ==== Sys2Proof/Machine/Raster.lean ====
section
/-! DEFINITION. The raster commands B2P and P2B (41_raster.md). -/

namespace Sys2Proof.Machine

/-- The pixel of bit 0 (rule R42). -/
def BLACK : Pixel := 0x000000#24

/-- The pixel of bit 1 (rule R42). -/
def WHITE : Pixel := 0xFFFFFF#24

/-- `(b == 0) ? BLACK : WHITE` (rule R120). -/
def bitToPixel (b : Bool) : Pixel := if b = false then BLACK else WHITE

/-- `(q == BLACK) ? 0 : 1` (rule R121). -/
def pixelToBit (q : Pixel) : Bool := if q = BLACK then false else true

/-- B2P: bits to pixels (rule R120); an unspecified bit gives an unspecified pixel (rule R51, I3), which may read as
any value (log 5). -/
def execB2p (s : State) : Host.Outcome State Fault Refusal :=
  finish .b2p (rasterCheck s.params.nb s.params.np s)
    (fun s => setOlen s.len.toNat
      (writePixels s.dst.toNat
        ((readRange (fun k => s.bitmem.get k) s.src.toNat s.len.toNat).map (Option.map bitToPixel)) s)) s

/-- P2B: pixels to bits, binary threshold; an unspecified pixel gives an unspecified bit (rules R121, R51, I3). -/
def execP2b (s : State) : Host.Outcome State Fault Refusal :=
  finish .p2b (rasterCheck s.params.np s.params.nb s)
    (fun s => setOlen s.len.toNat
      (writeBits s.dst.toNat
        ((readRange (fun k => s.pixmem.get k) s.src.toNat s.len.toNat).map (Option.map pixelToBit)) s)) s

/-- Where pixel `k` of a frame stands on the W × H canvas: column, row (rule R123). No command uses it. -/
def canvasPosition (s : State) (k : Nat) : Nat × Nat := (k % s.width.toNat, k / s.width.toNat)

end Sys2Proof.Machine
end

