-- ==== Sys2Proof/Machine/Dispatch.lean ====
section
/-! DEFINITION. The meaning of each command: the rule the engine step performs (43_control.md rule R151). -/

namespace Sys2Proof.Machine

def exec (i : Instr) (s : State) : Host.Outcome State Fault Refusal :=
  match i with
  -- 43_control.md
  | .nop => Sys2Proof.Machine.execNop s
  -- 40_cipher.md
  | .sub => Sys2Proof.Machine.execSub s
  | .xor => Sys2Proof.Machine.execXor s
  | .enc => Sys2Proof.Machine.execEnc s
  | .dec => Sys2Proof.Machine.execDec s
  -- 41_raster.md
  | .b2p => Sys2Proof.Machine.execB2p s
  | .p2b => Sys2Proof.Machine.execP2b s
  -- 42_chunker.md
  | .split => Sys2Proof.Machine.execSplit s
  | .fpush => Sys2Proof.Machine.execFpush s
  | .merge => Sys2Proof.Machine.execMerge s
  | .fclr => Sys2Proof.Machine.execFclr s

end Sys2Proof.Machine
end

