-- ==== Sys2Proof/Machine/Bus.lean ====
section
/-! DEFINITION. What the host and the platform do to the HCB: the address map (20_memory.md rules R60 to R62), host
reads and writes (rules R63 to R68, 43_control.md rules R154, R155, R157), soft reset (70_reset_and_hazards.md rules
R182, R183) and the stall rule (20_memory.md rule R71). -/

namespace Sys2Proof.Machine

/-- The registers at fixed offsets (rule R21). -/
def registerMap : List (Nat × Reg) :=
  [(0x000, .id), (0x004, .ctrl), (0x008, .status), (0x00C, .irqEn), (0x010, .cmd),
   (0x014, .src), (0x018, .dst), (0x01C, .len), (0x020, .olen),
   (0x024, .width), (0x028, .height), (0x02C, .fill), (0x030, .fidx), (0x034, .fcount), (0x038, .errInfo),
   (0x03C, .keylen), (0x040, .kphase),
   (0x044, .paramNB), (0x048, .paramNP), (0x04C, .paramCMAX), (0x050, .paramKMAX)]

/-- The register an offset of the register page names, if any (rules R21, R61). -/
def registerAt (p : Params) (off : Nat) : Option Reg :=
  if 0x100 ≤ off ∧ off < 0x100 + 4 * (p.kmax / 32) then some (.key ((off - 0x100) / 4))
  else registerMap.lookup off

/-- The element a window offset (a multiple of 4) maps, if any (rules R60, R62). -/
def locate (p : Params) (off : Nat) : Option Place :=
  if off < 0x1000 then (registerAt p off).map .reg
  else if 0x1000000 ≤ off ∧ off < 0x1000000 + p.nb / 8 then some (.bitWord ((off - 0x1000000) / 4))
  else if 0x2000000 ≤ off ∧ off < 0x2000000 + 4 * p.np then some (.pixel ((off - 0x2000000) / 4))
  else if 0x3000000 ≤ off ∧ off < 0x3000000 + 4 * p.cmax then some (.staged ((off - 0x3000000) / 4))
  else none

/-- Which element an access reaches, or the bus error that answers it (rules R62, R67). -/
def resolve (p : Params) (width : Nat) (off : Offset) : Except Fault Place :=
  if width ≠ 4 then .error .busErrorWidth
  else if off.toNat % 4 ≠ 0 then .error .busErrorMisaligned
  else
    match locate p off.toNat with
    | some place => .ok place
    | none => .error .busErrorUnmapped

/-- The constant of `ID` (rule R22). -/
def idWord : Word := 0x48434201#32

/-- The word a read of a register returns (rules R21 to R40). `CTRL` and `CMD` read 0. -/
def readReg (s : State) : Reg → Word
  | .id => idWord
  | .ctrl => 0#32
  | .status => s.statusWord
  | .irqEn => s.irqEnWord
  | .cmd => 0#32
  | .src => s.src
  | .dst => s.dst
  | .len => s.len
  | .olen => s.olen
  | .width => s.width.setWidth 32
  | .height => s.height.setWidth 32
  | .fill => s.fill.setWidth 32
  | .fidx => s.fidx
  | .fcount => s.fcount
  | .errInfo => s.errInfo
  | .keylen => s.keylen.setWidth 32
  | .kphase => s.kphase.setWidth 32
  | .paramNB => BitVec.ofNat 32 s.params.nb
  | .paramNP => BitVec.ofNat 32 s.params.np
  | .paramCMAX => BitVec.ofNat 32 s.params.cmax
  | .paramKMAX => BitVec.ofNat 32 s.params.kmax
  | .key n => s.key.getD n 0#32

/-- The word a read returns (rules R64, R65). -/
def readPlace (s : State) : Place → Word
  | .reg r => readReg s r
  | .bitWord w => packWord (fun k => s.bit (32 * w + k))
  | .pixel p => (s.pix p).setWidth 32
  | .staged k => (s.stg k).setWidth 32

/-- A read changes nothing (rule R68) but the count of free values drawn, where it reads a memory (log 5). -/
def afterRead (s : State) : Place → State
  | .reg _ => s
  | .bitWord _ => tick s
  | .pixel _ => tick s
  | .staged _ => tick s

/-- The destination elements a command would write: none if one of its checks fails (rules R69, R183). -/
def destination (i : Instr) (s : State) : Dest :=
  match i with
  | .nop => .none
  | .sub => if cipherCheck false s.evenLen s = none then .bits s.dst.toNat s.evenLen else .none
  | .xor => if cipherCheck true s.len.toNat s = none then .bits s.dst.toNat s.len.toNat else .none
  | .enc => if cipherCheck true s.evenLen s = none then .bits s.dst.toNat s.evenLen else .none
  | .dec => if cipherCheck true s.evenLen s = none then .bits s.dst.toNat s.evenLen else .none
  | .b2p => if rasterCheck s.params.nb s.params.np s = none then .pixels s.dst.toNat s.len.toNat else .none
  | .p2b => if rasterCheck s.params.np s.params.nb s = none then .bits s.dst.toNat s.len.toNat else .none
  | .split =>
    if splitCheck s = none then .pixels s.len.toNat (s.splitCount * s.capacity - s.len.toNat) else .none
  | .fpush => if fpushCheck s = none then .pixels (s.frameSlot s.fidx.toNat) s.capacity else .none
  | .merge => .none
  | .fclr => .none

/-- The destination elements of the command in flight, from the register values now; none for an illegal word or when
no command is in flight (rule R183). -/
def inflightDestination (s : State) : Dest :=
  match s.inflight with
  | none => .none
  | some w =>
    match decode w with
    | .ok i => destination i s
    | .error _ => .none

/-- The elements of a destination become unspecified (rules R183, R51, log 7). -/
def forgetDest (d : Dest) (s : State) : State :=
  match d with
  | .none => s
  | .bits base n => { s with bitmem := s.bitmem.forget base n }
  | .pixels base n => { s with pixmem := s.pixmem.forget base n }

/-- Every register, `PRESENT`, `PCAP` and the command in flight as after power-on reset; the memories as they are
(rule R182). The host's side is no state of the HCB and stays. -/
def resetRegisters (s : State) : State :=
  { State.powerOn s.params with
    bitmem := s.bitmem, pixmem := s.pixmem, stage := s.stage,
    draws := s.draws, host := s.host, replies := s.replies }

/-- Soft reset: the state of rule R182, a command in flight abandoned as rule R183 says. -/
def softReset (s : State) : State := resetRegisters (forgetDest (inflightDestination s) s)

/-- Power-on reset by the platform: the state of rule R181, every memory element unspecified. The host's side stays
(log 13). -/
def powerOnReset (s : State) : State :=
  { State.powerOn s.params with draws := s.draws, host := s.host, replies := s.replies }

/-- A write of `v` to `STATUS`: bit 1 clears DONE, bit 2 is the error clear, the rest is ignored (rules R155,
R165). -/
def writeStatus (v : Word) (s : State) : State :=
  let t := if v.getLsbD 1 = true then { s with done := false } else s
  if v.getLsbD 2 = true then clearError t else t

/-- A write of `v` to a register (rules R48, R150, R154, R155, R157): reserved bits are dropped, writes to RO
registers are ignored. -/
def writeReg (v : Word) (s : State) : Reg → State
  | .id => s
  | .ctrl => if v.getLsbD 0 = true then softReset s else s
  | .status => writeStatus v s
  | .irqEn => { s with doneIE := v.getLsbD 0, errIE := v.getLsbD 1 }
  | .cmd => acceptCommand v s
  | .src => { s with src := v }
  | .dst => { s with dst := v }
  | .len => { s with len := v }
  | .olen => s
  | .width => { s with width := v.extractLsb' 0 16 }
  | .height => { s with height := v.extractLsb' 0 16 }
  | .fill => { s with fill := v.extractLsb' 0 24 }
  | .fidx => { s with fidx := v }
  | .fcount => s
  | .errInfo => s
  | .keylen => { s with keylen := v.extractLsb' 0 16 }
  | .kphase => { s with kphase := v.extractLsb' 0 16 }
  | .paramNB => s
  | .paramNP => s
  | .paramCMAX => s
  | .paramKMAX => s
  | .key n => { s with key := s.key.set n v }

/-- A write of `v` to what an offset names (rules R64, R65). -/
def writePlace (v : Word) (s : State) : Place → State
  | .reg r => writeReg v s r
  | .bitWord w => writeBits (32 * w) ((unpackWord v).map some) s
  | .pixel p => writePixels p [some (v.extractLsb' 0 24)] s
  | .staged k => writeStaged k [some (v.extractLsb' 0 24)] s

/-- The bus answers the access. -/
def reply (r : Reply) (s : State) : State := { s with replies := r :: s.replies }

/-- The host will do `a` next, before the accesses that wait already. -/
def repeatInput (a : HostInput) (s : State) : State := { s with host := a :: s.host }

/-- One round of `WAIT`: a read of `STATUS`, and another round if bit 0 (BUSY) reads 1 (rule R86). -/
def waitRound (s : State) : State :=
  reply (.data (readReg s .status)) (if (readReg s .status).getLsbD 0 = true then repeatInput .wait s else s)

/-- One input is performed (rules R62, R67, R68, R86, R181). -/
def hostInput (a : HostInput) (s : State) : Host.Outcome State Fault Refusal :=
  match a with
  | .read width off =>
    match resolve s.params width off with
    | .ok place => .next (reply (.data (readPlace s place)) (afterRead s place))
    | .error e => .fault e
  | .write width off v =>
    match resolve s.params width off with
    | .ok place => .next (reply .written (writePlace v s place))
    | .error e => .fault e
  | .powerOn => .next (powerOnReset s)
  | .wait => .next (waitRound s)

/-- The registers whose read is performed at once while BUSY = 1 (rule R71). -/
def exemptRead : Reg → Bool
  | .id => true
  | .ctrl => true
  | .status => true
  | .irqEn => true
  | .paramNB => true
  | .paramNP => true
  | .paramCMAX => true
  | .paramKMAX => true
  | .cmd => false
  | .src => false
  | .dst => false
  | .len => false
  | .olen => false
  | .width => false
  | .height => false
  | .fill => false
  | .fidx => false
  | .fcount => false
  | .errInfo => false
  | .keylen => false
  | .kphase => false
  | .key _ => false

/-- The registers whose write is performed at once while BUSY = 1 (rule R71). -/
def exemptWrite : Reg → Bool
  | .ctrl => true
  | .status => true
  | .irqEn => true
  | .id => false
  | .paramNB => false
  | .paramNP => false
  | .paramCMAX => false
  | .paramKMAX => false
  | .cmd => false
  | .src => false
  | .dst => false
  | .len => false
  | .olen => false
  | .width => false
  | .height => false
  | .fill => false
  | .fidx => false
  | .fcount => false
  | .errInfo => false
  | .keylen => false
  | .kphase => false
  | .key _ => false

/-- An input that may be performed while BUSY = 1; any other access is held until the command ends (rule R71). An
access that the bus answers with an error is held too (log 12); a power-on reset is never held (log 13), nor is the read
of `STATUS` that a `WAIT` makes. -/
def exempt (p : Params) (a : HostInput) : Bool :=
  match a with
  | .read width off =>
    match resolve p width off with
    | .ok (.reg r) => exemptRead r
    | .ok (.bitWord _) => false
    | .ok (.pixel _) => false
    | .ok (.staged _) => false
    | .error _ => false
  | .write width off _ =>
    match resolve p width off with
    | .ok (.reg r) => exemptWrite r
    | .ok (.bitWord _) => false
    | .ok (.pixel _) => false
    | .ok (.staged _) => false
    | .error _ => false
  | .powerOn => true
  | .wait => true

end Sys2Proof.Machine
end

