-- ==== Sys2Proof/Machine/Engine.lean ====
section
/-! DEFINITION. The engine step (43_control.md rule R151) and which agent moves next (20_memory.md rules R70, R71,
70_reset_and_hazards.md rule R189). -/

namespace Sys2Proof.Machine

/-- The engine performs the accepted word `w` in one atomic step (rules R151, R186). -/
def engineStep (w : Word) (s : State) : Host.Outcome State Fault Refusal :=
  match decode w with
  | .ok i => exec i s
  | .error _ => .next (raiseError w { code := .illegalCmd, info := w } s)

/-- No command is in flight: the oldest input is performed; with none, the block stays idle (log 14). -/
def idleStep (s : State) : Host.Outcome State Fault Refusal :=
  match s.host with
  | [] => .next s
  | a :: rest => hostInput a { s with host := rest }

/-- Word `w` is in flight: exempt inputs may still be performed, as many as the free value `delay` says (rule R189,
log 4); otherwise the engine moves, and the input at the head is held (rule R71). -/
def busyStep (w : Word) (s : State) : Host.Outcome State Fault Refusal :=
  match s.host with
  | [] => engineStep w s
  | a :: rest =>
    if exempt s.params a = true ∧ 0 < s.delay then
      hostInput a { s with host := rest, delay := s.delay - 1 }
    else engineStep w s

end Sys2Proof.Machine
end

