-- ==== Sys2Proof/Machine/Step.lean ====
section
/-! DEFINITION. One step of the machine: one event of the total order of 20_memory.md rule R70. -/

namespace Sys2Proof.Machine

/-- One event: a host access (a command acceptance and a soft reset are host writes), an engine step, or a power-on
reset (rule R70, log 17). -/
def step (s : State) : Host.Outcome State Fault Refusal :=
  match s.inflight with
  | none => idleStep s
  | some w => busyStep w s

/-- The state with a command word in flight and the engine to move: the word stands where the next step finds it
(rule R46, log 11). -/
def State.withFetchWord (s : State) (nbits w : Nat) : State := loadCommand (BitVec.ofNat 32 (w % 2 ^ nbits)) s

end Sys2Proof.Machine
end

