-- ==== Sys2Proof/Machine/HostProgram.lean ====
section
/-! DEFINITION. The host-program notation and the pseudo-commands (30_encoding.md rules R85, R86): each line is a list
of host inputs. The notation speaks of existing words, pixels and key registers. For an index whose offset passes the 64
MiB window the spec gives it no meaning; this model takes the offset modulo 2^26 there (the model's choice, log 23). -/

namespace Sys2Proof.Machine.Program

/-- `offset(<reg>)`: the offset of a register (rule R21); `KEY<n>` past the window wraps (the model's choice, log
23). -/
def offsetOf : Reg → Offset
  | .id => 0x000#26
  | .ctrl => 0x004#26
  | .status => 0x008#26
  | .irqEn => 0x00C#26
  | .cmd => 0x010#26
  | .src => 0x014#26
  | .dst => 0x018#26
  | .len => 0x01C#26
  | .olen => 0x020#26
  | .width => 0x024#26
  | .height => 0x028#26
  | .fill => 0x02C#26
  | .fidx => 0x030#26
  | .fcount => 0x034#26
  | .errInfo => 0x038#26
  | .keylen => 0x03C#26
  | .kphase => 0x040#26
  | .paramNB => 0x044#26
  | .paramNP => 0x048#26
  | .paramCMAX => 0x04C#26
  | .paramKMAX => 0x050#26
  | .key n => BitVec.ofNat 26 (0x100 + 4 * n)

/-- `WR <reg>, <v>` (rule R85). -/
def wr (r : Reg) (v : Word) : HostInput := .write 4 (offsetOf r) v

/-- `RD <reg>` (rule R85). -/
def rd (r : Reg) : HostInput := .read 4 (offsetOf r)

/-- `WRB <w>, <v>` (rule R85); an index past the window wraps (the model's choice, log 23). -/
def wrb (w : Nat) (v : Word) : HostInput := .write 4 (BitVec.ofNat 26 (0x1000000 + 4 * w)) v

/-- `RDB <w>` (rule R85); an index past the window wraps (the model's choice, log 23). -/
def rdb (w : Nat) : HostInput := .read 4 (BitVec.ofNat 26 (0x1000000 + 4 * w))

/-- `WRP <p>, <v>` (rule R85); an index past the window wraps (the model's choice, log 23). -/
def wrp (p : Nat) (v : Word) : HostInput := .write 4 (BitVec.ofNat 26 (0x2000000 + 4 * p)) v

/-- `RDP <p>` (rule R85); an index past the window wraps (the model's choice, log 23). -/
def rdp (p : Nat) : HostInput := .read 4 (BitVec.ofNat 26 (0x2000000 + 4 * p))

/-- `WRS <s>, <v>` (rule R85); an index past the window wraps (the model's choice, log 23). -/
def wrs (k : Nat) (v : Word) : HostInput := .write 4 (BitVec.ofNat 26 (0x3000000 + 4 * k)) v

/-- `RDS <s>` (rule R85); an index past the window wraps (the model's choice, log 23). -/
def rds (k : Nat) : HostInput := .read 4 (BitVec.ofNat 26 (0x3000000 + 4 * k))

/-- `<MNEMONIC>`: the command word is written to `CMD` (rule R85). -/
def command (i : Instr) : HostInput := wr .cmd (encode i)

/-- `SUB d, s, n`, and likewise for XOR, ENC, DEC, B2P and P2B (rule R86). -/
def ranged (i : Instr) (d s n : Word) : List HostInput := [wr .src s, wr .dst d, wr .len n, command i]

/-- `SPLIT n` (rule R86). -/
def splitN (n : Word) : List HostInput := [wr .len n, command .split]

/-- `FPUSH f` (rule R86). -/
def fpushF (f : Word) : List HostInput := [wr .fidx f, command .fpush]

/-- `GEOM w, h` (rule R86). -/
def geom (w h : Word) : List HostInput := [wr .width w, wr .height h]

/-- The writes `WR KEY<n>, k0 ; WR KEY<n+1>, k1 ; …`. -/
def keyWrites : Nat → List Word → List HostInput
  | _, [] => []
  | n, k :: ks => wr (.key n) k :: keyWrites (n + 1) ks

/-- `SETKEY k0, ..., km ; L` (rule R86). -/
def setKey (ks : List Word) (l : Word) : List HostInput :=
  keyWrites 0 ks ++ [wr .keylen l, wr .kphase 0#32]

/-- `WAIT`: reads of `STATUS` until bit 0 (BUSY) reads 0 (rule R86). -/
def wait : HostInput := .wait

/-- `CLRERR` (rule R86). -/
def clrErr : HostInput := wr .status 0x00000004#32

/-- `CLRDONE` (rule R86). -/
def clrDone : HostInput := wr .status 0x00000002#32

/-- `SRST` (rule R86). -/
def srst : HostInput := wr .ctrl 0x00000001#32

end Sys2Proof.Machine.Program
end

