-- ==== Sys2Proof/Safety.lean ====
section
/-! DEFINITION. What claims are stated in: the invariant of the reachable states, a run that does not stop, and the
end of a run (70_reset_and_hazards.md rule R190). -/

namespace Sys2Proof.Machine

/-- The memories, the key and the presence map have their canonical form and their size (rules R7, R40 to R44). -/
structure State.Shaped (s : State) : Prop where
  params : s.params.wf
  key : s.key.length = s.params.kmax / 32
  bitmem : Memory.wf s.params.nb s.bitmem
  pixmem : Memory.wf s.params.np s.pixmem
  stage : Memory.wf s.params.cmax s.stage
  present : s.present.Pairwise (· < ·)

/-- The status rules: while BUSY, DONE, ERR and the error fields are 0 (rule R49); the error fields are 0 while ERR is
0 (rules R24, R36); DONE and ERR are never both 1 (rule R168); an error has one of the codes 1 to 8 (rule R161). -/
structure State.StatusOk (s : State) : Prop where
  busy : s.busy = true → s.done = false ∧ s.err = false
  clear : s.err = false → s.errCode = 0#8 ∧ s.errCmd = 0#8 ∧ s.errInfo = 0#32
  oneOf : ¬ (s.done = true ∧ s.err = true)
  code : s.err = true → 1 ≤ s.errCode.toNat ∧ s.errCode.toNat ≤ 8

/-- The frame bookkeeping: `PCAP` is 0 exactly when no frame is present, at most CMAX, and every present slot lies in
PIXMEM (rules R44, R45, R132). -/
structure State.FramesOk (s : State) : Prop where
  latched : s.pcap = 0#32 ↔ s.present = []
  bound : s.pcap.toNat ≤ s.params.cmax
  slots : ∀ f ∈ s.present, (f + 1) * s.pcap.toNat ≤ s.params.np

/-- The invariant of the reachable states. -/
structure State.Inv (s : State) : Prop where
  shaped : s.Shaped
  statusOk : s.StatusOk
  framesOk : s.FramesOk

/-- `k` steps, stopping at the first bus error: the run of the host's interface, in this machine's own types. -/
def runSteps : Nat → State → Host.Outcome State Fault Refusal
  | 0, s => .next s
  | k + 1, s =>
    match step s with
    | .next t => runSteps k t
    | .fault f => .fault f
    | .refused r => .refused r

/-- A run that meets no bus error: every access the host makes in it is answered (rules R62, R67). -/
def safeFor (k : Nat) (s : State) : Prop := ∃ t, runSteps k s = .next t

/-- A host program over the HCB has ended: no access is left and no command is in flight (rule R190). -/
def State.ended (s : State) : Prop := s.host = [] ∧ s.inflight = none

end Sys2Proof.Machine
end

