-- ==== Sys2Proof/Certificates/Slice0/Obligations.lean ====
section
/-! DEFINITION. The statements about the model, each from the numbered rules of spec/. In every statement about a
command, the state is any state with any parameters, and `m.get a` is what a memory holds at an element, `none` where
it is unspecified: a command's result is unspecified exactly where the source element it is computed from is (rule R51,
93_implementation_defined.md entry I3). `s.bit`, `s.pix`, `s.stg` are what reading an element gives, a free value where
it is unspecified. The fields `delay`, `draws`, `host`, `replies` are the model's own (log 3, 4, 5). -/

namespace Sys2Proof.Machine.Spec

/-- The state after the error entry of rule R163 in the step of a command with `OPC = opc`. -/
def errorEntry (s : State) (opc code : Byte) (info : Word) : State :=
  { s with inflight := none, err := true, errCode := code, errCmd := opc, errInfo := info }

/-- The state after `complete()` of rule R152. -/
def completed (s : State) : State := { s with inflight := none, done := true }

/-- Two states agree on everything but `delay` and `draws`, the model's own counters of free values (log 4, 5). -/
def agrees (u t : State) : Prop := u = { t with delay := u.delay, draws := u.draws }

/-- The outcome is a next state, and it is `t` up to the model's own counters. -/
def answers (o : Host.Outcome State Fault Refusal) (t : State) : Prop := ∃ u, o = .next u ∧ agrees u t

/-- `(HEIGHT[15:0] << 16) + WIDTH[15:0]`, the information word of BAD_GEOMETRY (rule R161). -/
def geometryWord (s : State) : Word := BitVec.ofNat 32 (s.height.toNat * 65536 + s.width.toNat)

/-- The engine moves next: the access at the head, if any, is not exempt, or no exempt access is due before it. -/
def engineTurn (s : State) : Prop := ∀ a rest, s.host = a :: rest → exempt s.params a = false ∨ s.delay = 0

/-- The host's access at the head is performed next: no command is in flight, or an exempt access is due. -/
def hostTurn (s : State) (a : HostInput) : Prop :=
  s.inflight = none ∨ (exempt s.params a = true ∧ 0 < s.delay)

/-- The model's own `delay` after an input is performed: one less while a command is in flight (log 4). -/
def delayAfter (s : State) : Nat := match s.inflight with | none => s.delay | some _ => s.delay - 1

/-- The inputs that end a pending error: a STATUS write with bit 2, a soft reset, the power-on reset (rule R165). -/
def clearsError (a : HostInput) : Prop :=
  (∃ v, a = .write 4 0x008#26 v ∧ v.getLsbD 2 = true) ∨ (∃ v, a = .write 4 0x004#26 v ∧ v.getLsbD 0 = true) ∨
  a = .powerOn

/-- The key is legal: `1 <= L <= KMAX` and `P < L` (rules R38, R39). -/
def keyOk (s : State) : Prop :=
  1 ≤ s.keylen.toNat ∧ s.keylen.toNat ≤ s.params.kmax ∧ s.kphase.toNat < s.keylen.toNat

/-- The layout is legal: both ranges lie in BITMEM and the destination does not start inside the source after its
start (rule R104). -/
def layoutOk (s : State) (olen : Nat) : Prop :=
  s.src.toNat + s.len.toNat ≤ s.params.nb ∧ s.dst.toNat + olen ≤ s.params.nb ∧
  ¬ (0 < olen ∧ s.src.toNat < s.dst.toNat ∧ s.dst.toNat < s.src.toNat + s.len.toNat)

/-- The range and overlap errors of a cipher command, in their order (rules R104, R162). -/
def layoutErrors (i : Instr) (opc : Byte) (olen : Nat) (s : State) : Prop :=
  (s.params.nb < s.src.toNat + s.len.toNat → answers (exec i s) (errorEntry s opc 0x04#8 0#32)) ∧
  (s.src.toNat + s.len.toNat ≤ s.params.nb → s.params.nb < s.dst.toNat + olen →
    answers (exec i s) (errorEntry s opc 0x04#8 1#32)) ∧
  (s.src.toNat + s.len.toNat ≤ s.params.nb → s.dst.toNat + olen ≤ s.params.nb →
    0 < olen → s.src.toNat < s.dst.toNat → s.dst.toNat < s.src.toNat + s.len.toNat →
    answers (exec i s) (errorEntry s opc 0x05#8 0#32))

/-- The errors of a keyed cipher command, in their order (rules R104, R162). -/
def keyedErrors (i : Instr) (opc : Byte) (olen : Nat) (s : State) : Prop :=
  (s.keylen.toNat = 0 ∨ s.params.kmax < s.keylen.toNat →
    answers (exec i s) (errorEntry s opc 0x02#8 (BitVec.ofNat 32 s.keylen.toNat))) ∧
  (1 ≤ s.keylen.toNat → s.keylen.toNat ≤ s.params.kmax → s.keylen.toNat ≤ s.kphase.toNat →
    answers (exec i s) (errorEntry s opc 0x02#8 (BitVec.ofNat 32 (0x10000 + s.kphase.toNat)))) ∧
  (keyOk s → layoutErrors i opc olen s)

/-- A cipher command completes with `OLEN = olen` and the bits `out` at `BIT(DST ..)`, unspecified where the source bit
of the same index is (I3); every other bit, and every other field, is as before. -/
def cipherResult (i : Instr) (olen : Nat) (out : Nat → Bool) (s : State) : Prop :=
  ∃ m : Memory Bool,
    answers (exec i s) { completed s with bitmem := m, olen := BitVec.ofNat 32 olen } ∧
    (∀ k, k < olen → m.get (s.dst.toNat + k) = (s.bitmem.get (s.src.toNat + k)).map (fun _ => out k)) ∧
    (∀ a, a < s.dst.toNat ∨ s.dst.toNat + olen ≤ a → m.get a = s.bitmem.get a)

/-- The bit of index `k` of `Subst(t)`, for a sequence `t` given by its bits: the pair of `k` through the table of
rule R100. -/
def substBit (t : Nat → Bool) (k : Nat) : Bool :=
  if k % 2 = 0 then (lut (t k) (t (k + 1))).1 else (lut (t (k - 1)) (t k)).2

/-- `ks(i)` of rule R102. -/
def keystreamBit (s : State) (i : Nat) : Bool := s.keyBit ((s.kphase.toNat + i) % s.keylen.toNat)

/-- `BIT(SRC + i)` as the command reads it. -/
def sourceBit (s : State) (i : Nat) : Bool := s.bit (s.src.toNat + i)

/-- The commands that write BITMEM (rule R69). -/
def writesBitmem : Instr → Bool
  | .sub => true
  | .xor => true
  | .enc => true
  | .dec => true
  | .p2b => true
  | .b2p => false
  | .split => false
  | .fpush => false
  | .merge => false
  | .fclr => false
  | .nop => false

/-- Bit `a` is a destination element of the completed command `i` (rule R69): `u` is the state after it. -/
def destinationBit (i : Instr) (s u : State) (a : Nat) : Prop :=
  u.done = true ∧ writesBitmem i = true ∧ s.dst.toNat ≤ a ∧ a < s.dst.toNat + u.olen.toNat

/-- Pixel `p` is a destination element of the completed command `i` (rule R69): `u` is the state after it. -/
def destinationPixel (i : Instr) (s u : State) (p : Nat) : Prop :=
  u.done = true ∧
  ((i = .b2p ∧ s.dst.toNat ≤ p ∧ p < s.dst.toNat + s.len.toNat) ∨
   (i = .split ∧ s.len.toNat ≤ p ∧ p < u.olen.toNat) ∨
   (i = .fpush ∧ s.fidx.toNat * s.capacity ≤ p ∧ p < s.fidx.toNat * s.capacity + s.capacity))

/-- Bit `a` is a destination element of the command word `w` in flight; none is of an illegal word (rule R183). -/
def abandonedBit (w : Word) (s u : State) (a : Nat) : Prop := ∃ i, decode w = .ok i ∧ destinationBit i s u a

/-- Pixel `p` is a destination element of the command word `w` in flight (rule R183). -/
def abandonedPixel (w : Word) (s u : State) (p : Nat) : Prop := ∃ i, decode w = .ok i ∧ destinationPixel i s u p

/-- A window offset that maps an element (rules R21, R60, R62). -/
def mapped (p : Params) (off : Nat) : Prop :=
  off < 0x54 ∨ (0x100 ≤ off ∧ off < 0x100 + 4 * (p.kmax / 32)) ∨
  (0x1000000 ≤ off ∧ off < 0x1000000 + p.nb / 8) ∨
  (0x2000000 ≤ off ∧ off < 0x2000000 + 4 * p.np) ∨
  (0x3000000 ≤ off ∧ off < 0x3000000 + 4 * p.cmax)

/-- The RW registers other than CTRL, with the bits they store (rules R21, R157). -/
def storedBits : Reg → Option Word
  | .irqEn => some 0x00000003#32
  | .src => some 0xFFFFFFFF#32
  | .dst => some 0xFFFFFFFF#32
  | .len => some 0xFFFFFFFF#32
  | .fidx => some 0xFFFFFFFF#32
  | .width => some 0x0000FFFF#32
  | .height => some 0x0000FFFF#32
  | .keylen => some 0x0000FFFF#32
  | .kphase => some 0x0000FFFF#32
  | .fill => some 0x00FFFFFF#32
  | .key _ => some 0xFFFFFFFF#32
  | .id => none
  | .ctrl => none
  | .status => none
  | .cmd => none
  | .olen => none
  | .fcount => none
  | .errInfo => none
  | .paramNB => none
  | .paramNP => none
  | .paramCMAX => none
  | .paramKMAX => none

/-- What a read of each offset of the register page returns, but for the key (rule R21). -/
def registerPage (s : State) : List (Offset × Word) :=
  [(0x000#26, 0x48434201#32), (0x004#26, 0#32), (0x008#26, s.statusWord), (0x00C#26, s.irqEnWord), (0x010#26, 0#32),
   (0x014#26, s.src), (0x018#26, s.dst), (0x01C#26, s.len), (0x020#26, s.olen), (0x024#26, 0#16 ++ s.width),
   (0x028#26, 0#16 ++ s.height), (0x02C#26, 0#8 ++ s.fill), (0x030#26, s.fidx), (0x034#26, s.fcount),
   (0x038#26, s.errInfo), (0x03C#26, 0#16 ++ s.keylen), (0x040#26, 0#16 ++ s.kphase),
   (0x044#26, BitVec.ofNat 32 s.params.nb), (0x048#26, BitVec.ofNat 32 s.params.np),
   (0x04C#26, BitVec.ofNat 32 s.params.cmax), (0x050#26, BitVec.ofNat 32 s.params.kmax)]

/-- The host writes frame `f`, `C` pixels taken from `frames`, into STAGE and pushes it with `FIDX = f`. -/
def pushFrame (frames : Nat → Pixel) (f : Nat) (s : State) : Host.Outcome State Fault Refusal :=
  exec .fpush { s with
    stage := s.stage.write 0 (readRange frames (f * s.capacity) s.capacity), fidx := BitVec.ofNat 32 f }

/-- The frames of a list are pushed one after another; the state after the last, if every push answers one. -/
def pushFrames (frames : Nat → Pixel) : List Nat → State → Option State
  | [], s => some s
  | f :: fs, s =>
    match pushFrame frames f s with
    | .next t => if t.err = true then none else pushFrames frames fs t
    | .fault _ => none
    | .refused _ => none

end Sys2Proof.Machine.Spec

open Sys2Proof Sys2Proof.Machine Sys2Proof.Machine.Spec

/-! ### Encoding (30_encoding.md) -/

/-- The eleven words of rule R82 decode to their commands. -/
def Obligations.DecodeReadsTheOpcodeMap : Prop :=
  decode 0x00000000#32 = .ok .nop ∧ decode 0x00000001#32 = .ok .sub ∧ decode 0x00000002#32 = .ok .xor ∧
  decode 0x00000003#32 = .ok .enc ∧ decode 0x00000004#32 = .ok .dec ∧ decode 0x00000010#32 = .ok .b2p ∧
  decode 0x00000011#32 = .ok .p2b ∧ decode 0x00000020#32 = .ok .split ∧ decode 0x00000021#32 = .ok .fpush ∧
  decode 0x00000022#32 = .ok .merge ∧ decode 0x00000023#32 = .ok .fclr

/-- Decode and encode agree in both directions: a word decodes to a command exactly when it is that command's word
(rules R82, R83). -/
def Obligations.DecodeAnswersExactlyTheEncodedWord : Prop :=
  ∀ (w : Word) (i : Instr), decode w = .ok i ↔ w = encode i

/-- The illegal words are exactly those with `RSV != 0` or with an OPC in 0x05-0x0F, 0x12-0x1F, 0x24-0xFF (rule
R84), in numbers. -/
def Obligations.IllegalWordsAreTheReservedOnes : Prop :=
  ∀ w : Word, (∃ e, decode w = .error e) ↔
    (256 ≤ w.toNat ∨ (0x05 ≤ w.toNat ∧ w.toNat ≤ 0x0F) ∨ (0x12 ≤ w.toNat ∧ w.toNat ≤ 0x1F) ∨
      (0x24 ≤ w.toNat ∧ w.toNat ≤ 0xFF))

/-! ### The step: acceptance, the engine step, the stall rule (43_control.md, 20_memory.md) -/

/-- When the word in flight decodes to a command and the engine moves, the step is that command's meaning (rule
R151). -/
def Obligations.StepRunsTheDecodedCommand : Prop :=
  ∀ (s : State) (w : Word) (i : Instr), s.inflight = some w → engineTurn s → decode w = .ok i → step s = exec i s

/-- When the word in flight is illegal and the engine moves, the step is the error entry ILLEGAL_CMD with the word as
information (rules R151, R161, R163). -/
def Obligations.IllegalWordRaisesIllegalCmd : Prop :=
  ∀ (s : State) (w : Word) (e : DecodeError), s.inflight = some w → engineTurn s → decode w = .error e →
    answers (step s) (errorEntry s (w.extractLsb' 0 8) 0x01#8 w)

/-- The model's fetch: with a command's word placed by `withFetchWord`, the next step runs that command (log 11). -/
def Obligations.PlacedWordIsRunByTheNextStep : Prop :=
  ∀ (s : State) (i : Instr),
    step (s.withFetchWord 32 (encode i).toNat) = exec i (s.withFetchWord 32 (encode i).toNat)

/-- Acceptance: a write to CMD is discarded without a trace while ERR = 1; otherwise it clears DONE, sets BUSY and
puts the word in flight, undecoded; while a command is in flight the write waits and the engine moves (rule R150). -/
def Obligations.CmdWriteIsAcceptedDiscardedOrHeld : Prop :=
  ∀ (s : State) (w : Word) (rest : List HostInput), s.host = .write 4 0x010#26 w :: rest →
    (s.inflight = none → s.err = true →
      step s = .next { s with host := rest, replies := .written :: s.replies }) ∧
    (s.inflight = none → s.err = false → ∃ d : Nat,
      step s = .next { s with
        host := rest, replies := .written :: s.replies, done := false, inflight := some w,
        delay := d, draws := s.draws + 1 }) ∧
    (∀ w', s.inflight = some w' → step s = engineStep w' s)

/-- From an idle block with no error pending, a CMD write of a command's word, with no other access waiting, leads in
two steps to the command's meaning applied to the state with BUSY = 1 and DONE = 0 (rules R150, R151). -/
def Obligations.IssuedCommandIsRun : Prop :=
  ∀ (s : State) (i : Instr), s.inflight = none → s.err = false → s.host = [.write 4 0x010#26 (encode i)] →
    ∃ d : Nat, runSteps 2 s = exec i { s with
      host := [], replies := .written :: s.replies, done := false, inflight := some (encode i),
      delay := d, draws := s.draws + 1 }

/-- While ERR = 1 every command written is discarded, however many are written (rule R164). -/
def Obligations.PendingErrorDiscardsEveryCommand : Prop :=
  ∀ (ws : List Word) (s : State), s.inflight = none → s.err = true →
    s.host = ws.map (fun w => HostInput.write 4 0x010#26 w) →
    runSteps ws.length s =
      .next { s with host := [], replies := List.replicate ws.length Reply.written ++ s.replies }

/-- At most one error is pending, and nothing but the error clear or a reset ends it (rules R165, R166; the power-on
reset among the inputs is the model's choice, log 13): while ERR = 1 a step leaves no command in flight, and either ERR,
ERRCODE, ERRCMD and ERRINFO are as before or the input performed was one of those. -/
def Obligations.PendingErrorStaysUntilItIsCleared : Prop :=
  ∀ s t : State, s.Inv → s.err = true → step s = .next t →
    t.inflight = none ∧
    ((t.err = true ∧ t.errCode = s.errCode ∧ t.errCmd = s.errCmd ∧ t.errInfo = s.errInfo) ∨
      (t.err = false ∧ ∃ a rest, s.host = a :: rest ∧ clearsError a))

/-- The exempt accesses are the aligned 32-bit reads of ID, CTRL, STATUS, IRQ_EN and PARAM_*, the aligned 32-bit
writes of CTRL, STATUS and IRQ_EN (rule R71), the STATUS reads of a WAIT (log 3), and the platform's power-on reset (the
model's choice, log 13). -/
def Obligations.ExemptAccessesAreTheListedOnes : Prop :=
  ∀ (p : Params) (a : HostInput), (exempt p a = true ↔
    (∃ off, a = .read 4 off ∧
      off ∈ [0x000#26, 0x004#26, 0x008#26, 0x00C#26, 0x044#26, 0x048#26, 0x04C#26, 0x050#26]) ∨
    (∃ off v, a = .write 4 off v ∧ off ∈ [0x004#26, 0x008#26, 0x00C#26]) ∨ a = .powerOn ∨
    a = .wait)

/-- While a command is in flight an access that is not exempt is held: the step is the engine's, it answers a next
state, the access is still at the head, no answer has been given, and the command has ended (rule R71). -/
def Obligations.HeldAccessWaitsForTheCommand : Prop :=
  ∀ (s : State) (w : Word) (a : HostInput) (rest : List HostInput),
    s.inflight = some w → s.host = a :: rest → exempt s.params a = false →
    ∃ t, step s = .next t ∧ t.inflight = none ∧ t.host = a :: rest ∧ t.replies = s.replies

/-- The engine step is not withheld: whatever exempt accesses the host makes, within `delay + 1` steps the command in
flight has ended (rule R189; that the delay is a number in State is the model's choice, log 4). -/
def Obligations.CommandInFlightEnds : Prop :=
  ∀ (s : State) (w : Word), s.inflight = some w →
    ∃ k t, k ≤ s.delay + 1 ∧ runSteps k s = .next t ∧ t.inflight = none

/-- WAIT reads STATUS until bit 0 reads 0, and ends (rules R86, R189): each round answers STATUS and stays at the head
exactly while a command is in flight; a run performs some number of rounds whose answers have bit 0 = 1 and one whose
answer has bit 0 = 0, and then the host's next access is at the head. That WAIT is one input is the model's choice (log
3). -/
def Obligations.WaitReadsStatusUntilBusyReadsZero : Prop :=
  ∀ (s : State) (rest : List HostInput), s.host = .wait :: rest →
    (hostTurn s .wait → step s = .next { s with
      host := if s.inflight = none then rest else .wait :: rest
      replies := .data (readReg s .status) :: s.replies
      delay := delayAfter s }) ∧
    ∃ (k n : Nat) (t : State) (w : Word), runSteps k s = .next t ∧ t.inflight = none ∧ t.host = rest ∧
      t.replies = .data w :: (List.replicate n (Reply.data (readReg s .status)) ++ s.replies) ∧
      w.getLsbD 0 = false ∧ (0 < n → (readReg s .status).getLsbD 0 = true)

/-- With no command in flight and no access waiting the block does nothing (rules R181, R190; that such a step answers
the same state is the model's choice, log 14). -/
def Obligations.IdleBlockDoesNothing : Prop :=
  ∀ s : State, s.inflight = none → s.host = [] → step s = .next s

/-! ### The commands (40_cipher.md, 41_raster.md, 42_chunker.md, 43_control.md) -/

/-- NOP completes and changes nothing else (rule R153). -/
def Obligations.NopOnlyCompletes : Prop :=
  decode 0x00000000#32 = .ok .nop ∧
  ∀ s : State, answers (exec .nop s) (completed s)

/-- `Subst` maps the pairs from index 0 on through the table 00 to 11, 01 to 10, 10 to 01, 11 to 00 and drops a
dangling bit: its length is `2n` with `n = floor(len / 2)` (rules R100, R101). -/
def Obligations.SubstMapsPairsAndDropsTheDanglingBit : Prop :=
  ∀ l : List Bool, (subst l).length = 2 * (l.length / 2) ∧
    ∀ (j : Nat) (a b x y : Bool),
      (a, b, x, y) ∈ [(false, false, true, true), (false, true, true, false), (true, false, false, true),
        (true, true, false, false)] →
      l[2 * j]? = some a → l[2 * j + 1]? = some b →
      (subst l)[2 * j]? = some x ∧ (subst l)[2 * j + 1]? = some y

/-- The substitution complements every bit it keeps (rule R109). -/
def Obligations.SubstComplementsEveryKeptBit : Prop :=
  ∀ (l : List Bool) (i : Nat), i < 2 * (l.length / 2) → (subst l)[i]? = l[i]?.map (fun b => !b)

/-- SUB (rule R105): its errors in order, and otherwise the substituted pairs at `BIT(DST ..)`, `OLEN`, `complete()`
and nothing else. -/
def Obligations.SubMeetsItsRule : Prop :=
  decode 0x00000001#32 = .ok .sub ∧
  ∀ s : State, layoutErrors .sub 0x01#8 (2 * (s.len.toNat / 2)) s ∧
    (layoutOk s (2 * (s.len.toNat / 2)) →
      cipherResult .sub (2 * (s.len.toNat / 2)) (substBit (sourceBit s)) s)

/-- XOR (rule R106): its errors in order, and otherwise every source bit XOR its keystream bit. -/
def Obligations.XorMeetsItsRule : Prop :=
  decode 0x00000002#32 = .ok .xor ∧
  ∀ s : State, keyedErrors .xor 0x02#8 s.len.toNat s ∧
    (keyOk s → layoutOk s s.len.toNat →
      cipherResult .xor s.len.toNat (fun k => sourceBit s k ^^ keystreamBit s k) s)

/-- ENC (rule R107): its errors in order, and otherwise the stream cipher over the substituted bits. -/
def Obligations.EncMeetsItsRule : Prop :=
  decode 0x00000003#32 = .ok .enc ∧
  ∀ s : State, keyedErrors .enc 0x03#8 (2 * (s.len.toNat / 2)) s ∧
    (keyOk s → layoutOk s (2 * (s.len.toNat / 2)) →
      cipherResult .enc (2 * (s.len.toNat / 2)) (fun k => substBit (sourceBit s) k ^^ keystreamBit s k) s)

/-- DEC (rule R108): its errors in order, and otherwise the substitution over the XORed bits. -/
def Obligations.DecMeetsItsRule : Prop :=
  decode 0x00000004#32 = .ok .dec ∧
  ∀ s : State, keyedErrors .dec 0x04#8 (2 * (s.len.toNat / 2)) s ∧
    (keyOk s → layoutOk s (2 * (s.len.toNat / 2)) →
      cipherResult .dec (2 * (s.len.toNat / 2)) (substBit (fun k => sourceBit s k ^^ keystreamBit s k)) s)

/-- B2P (rule R120): RANGE of the source, then of the destination, and otherwise BLACK for 0, WHITE for 1, an
unspecified pixel for an unspecified bit (I3). -/
def Obligations.B2pMeetsItsRule : Prop :=
  decode 0x00000010#32 = .ok .b2p ∧
  ∀ s : State,
    (s.params.nb < s.src.toNat + s.len.toNat → answers (exec .b2p s) (errorEntry s 0x10#8 0x04#8 0#32)) ∧
    (s.src.toNat + s.len.toNat ≤ s.params.nb → s.params.np < s.dst.toNat + s.len.toNat →
      answers (exec .b2p s) (errorEntry s 0x10#8 0x04#8 1#32)) ∧
    (s.src.toNat + s.len.toNat ≤ s.params.nb → s.dst.toNat + s.len.toNat ≤ s.params.np →
      ∃ m : Memory Pixel,
        answers (exec .b2p s) { completed s with pixmem := m, olen := s.len } ∧
        (∀ k, k < s.len.toNat → m.get (s.dst.toNat + k) =
          (s.bitmem.get (s.src.toNat + k)).map (fun b => if b = true then 0xFFFFFF#24 else 0x000000#24)) ∧
        (∀ p, p < s.dst.toNat ∨ s.dst.toNat + s.len.toNat ≤ p → m.get p = s.pixmem.get p))

/-- P2B (rule R121): RANGE of the source, then of the destination, and otherwise 0 for a pixel whose 24 bits are 0, 1
for any other, an unspecified bit for an unspecified pixel (I3). -/
def Obligations.P2bMeetsItsRule : Prop :=
  decode 0x00000011#32 = .ok .p2b ∧
  ∀ s : State,
    (s.params.np < s.src.toNat + s.len.toNat → answers (exec .p2b s) (errorEntry s 0x11#8 0x04#8 0#32)) ∧
    (s.src.toNat + s.len.toNat ≤ s.params.np → s.params.nb < s.dst.toNat + s.len.toNat →
      answers (exec .p2b s) (errorEntry s 0x11#8 0x04#8 1#32)) ∧
    (s.src.toNat + s.len.toNat ≤ s.params.np → s.dst.toNat + s.len.toNat ≤ s.params.nb →
      ∃ m : Memory Bool,
        answers (exec .p2b s) { completed s with bitmem := m, olen := s.len } ∧
        (∀ k, k < s.len.toNat → m.get (s.dst.toNat + k) =
          (s.pixmem.get (s.src.toNat + k)).map (fun q => decide (q ≠ 0x000000#24))) ∧
        (∀ a, a < s.dst.toNat ∨ s.dst.toNat + s.len.toNat ≤ a → m.get a = s.bitmem.get a))

/-- SPLIT (rule R131): BAD_GEOMETRY, RANGE of the sequence, RANGE of the padding, and otherwise the filler from `LEN`
to the end of the last frame, `FCOUNT` and `OLEN`. `N` is the least number of frames that holds `LEN` pixels (rule
R11). -/
def Obligations.SplitMeetsItsRule : Prop :=
  decode 0x00000020#32 = .ok .split ∧
  ∀ (s : State) (c n : Nat), c = s.width.toNat * s.height.toNat →
    (c = 0 → answers (exec .split s) (errorEntry s 0x20#8 0x03#8 (geometryWord s))) ∧
    (0 < c → s.params.np < s.len.toNat → answers (exec .split s) (errorEntry s 0x20#8 0x04#8 0#32)) ∧
    (0 < c → s.len.toNat ≤ s.params.np → s.len.toNat ≤ n * c → (∀ k, s.len.toNat ≤ k * c → n ≤ k) →
      (s.params.np < n * c → answers (exec .split s) (errorEntry s 0x20#8 0x04#8 1#32)) ∧
      (n * c ≤ s.params.np → ∃ m : Memory Pixel,
        answers (exec .split s) { completed s with
          pixmem := m, fcount := BitVec.ofNat 32 n, olen := BitVec.ofNat 32 (n * c) } ∧
        (∀ p, s.len.toNat ≤ p → p < n * c → m.get p = some s.fill) ∧
        (∀ p, p < s.len.toNat ∨ n * c ≤ p → m.get p = s.pixmem.get p)))

/-- FPUSH (rule R132): its four checks in order, and otherwise the staged pixels at the slot of the index, copied as
they are (an unspecified one stays so, R51), the presence bit, the latched capacity and `OLEN`. -/
def Obligations.FpushMeetsItsRule : Prop :=
  decode 0x00000021#32 = .ok .fpush ∧
  ∀ (s : State) (c f : Nat), c = s.width.toNat * s.height.toNat → f = s.fidx.toNat →
    (c = 0 ∨ s.params.cmax < c → answers (exec .fpush s) (errorEntry s 0x21#8 0x03#8 (geometryWord s))) ∧
    (0 < c → c ≤ s.params.cmax →
      (s.pcap ≠ 0#32 → c ≠ s.pcap.toNat → answers (exec .fpush s) (errorEntry s 0x21#8 0x03#8 (geometryWord s))) ∧
      (s.pcap = 0#32 ∨ c = s.pcap.toNat →
        (s.params.np < (f + 1) * c → answers (exec .fpush s) (errorEntry s 0x21#8 0x06#8 s.fidx)) ∧
        ((f + 1) * c ≤ s.params.np → f ∈ s.present →
          answers (exec .fpush s) (errorEntry s 0x21#8 0x07#8 s.fidx)) ∧
        ((f + 1) * c ≤ s.params.np → f ∉ s.present → ∃ (m : Memory Pixel) (pr : List Nat),
          answers (exec .fpush s) { completed s with
            pixmem := m, present := pr, pcap := if s.pcap = 0#32 then BitVec.ofNat 32 c else s.pcap,
            olen := BitVec.ofNat 32 c } ∧
          (∀ k, k < c → m.get (f * c + k) = s.stage.get k) ∧
          (∀ p, p < f * c ∨ f * c + c ≤ p → m.get p = s.pixmem.get p) ∧
          (∀ g, g ∈ pr ↔ g = f ∨ g ∈ s.present))))

/-- MERGE (rule R133): BAD_GEOMETRY twice, MISSING_FRAME with the least absent index below the highest present one,
and otherwise `FCOUNT = N` and `OLEN = N * C`. `N` is 0 with no frame present, else 1 + the highest present index. -/
def Obligations.MergeMeetsItsRule : Prop :=
  decode 0x00000022#32 = .ok .merge ∧
  ∀ (s : State) (c n : Nat), c = s.width.toNat * s.height.toNat →
    (c = 0 → answers (exec .merge s) (errorEntry s 0x22#8 0x03#8 (geometryWord s))) ∧
    (0 < c → s.pcap ≠ 0#32 → c ≠ s.pcap.toNat → answers (exec .merge s) (errorEntry s 0x22#8 0x03#8 (geometryWord s))) ∧
    (0 < c → s.pcap = 0#32 ∨ c = s.pcap.toNat →
      (n = 0 ∧ s.present = []) ∨ (∃ top, n = top + 1 ∧ top ∈ s.present ∧ ∀ f ∈ s.present, f ≤ top) →
      (∀ g, g < n → g ∉ s.present → (∀ f, f < g → f ∈ s.present) →
        answers (exec .merge s) (errorEntry s 0x22#8 0x08#8 (BitVec.ofNat 32 g))) ∧
      ((∀ f, f < n → f ∈ s.present) →
        answers (exec .merge s) { completed s with
          fcount := BitVec.ofNat 32 n, olen := BitVec.ofNat 32 (n * c) }))

/-- FCLR completes with no frame present and no latched capacity, and changes nothing else (rule R134). -/
def Obligations.FclrClearsTheFrameBookkeeping : Prop :=
  decode 0x00000023#32 = .ok .fclr ∧
  ∀ s : State, answers (exec .fclr s) { completed s with present := [], pcap := 0#32 }

/-! ### What holds of every command (10_state.md, 20_memory.md, 60_exceptions.md) -/

/-- Every engine step ends, with BUSY = 0: no command faults or is refused (rule R151). -/
def Obligations.EveryCommandEnds : Prop :=
  ∀ (i : Instr) (s : State), ∃ t, exec i s = .next t ∧ t.inflight = none

/-- A command that raises an error changes nothing but STATUS and ERRINFO, as the error entry says, with its own OPC
as ERRCMD and a code from 2 to 8; one that raises none completes with DONE = 1 and the error fields as before (rules
R152, R160, R163). -/
def Obligations.CommandErrorsArePrecise : Prop :=
  ∀ (i : Instr) (s t : State), exec i s = .next t →
    (∃ (code : Byte) (info : Word), 2 ≤ code.toNat ∧ code.toNat ≤ 8 ∧ agrees t (errorEntry s (opcode i) code info)) ∨
    (t.done = true ∧ t.err = s.err ∧ t.errCode = s.errCode ∧ t.errCmd = s.errCmd ∧ t.errInfo = s.errInfo)

/-- No command writes an operand register, the key, IRQ_EN, a parameter or STAGE (rule R47). -/
def Obligations.CommandsLeaveOperandsAlone : Prop :=
  ∀ (i : Instr) (s t : State), exec i s = .next t →
    t.params = s.params ∧ t.doneIE = s.doneIE ∧ t.errIE = s.errIE ∧ t.src = s.src ∧ t.dst = s.dst ∧
    t.len = s.len ∧ t.width = s.width ∧ t.height = s.height ∧ t.fill = s.fill ∧ t.fidx = s.fidx ∧
    t.keylen = s.keylen ∧ t.kphase = s.kphase ∧ t.key = s.key ∧ t.stage = s.stage

/-- A command changes no element outside its destination range of rule R69, in the form for a state with DONE = 0, as
it is while a command is in flight. -/
def Obligations.CommandsWriteOnlyTheirDestination : Prop :=
  ∀ (i : Instr) (s t : State), s.params.wf → s.done = false → exec i s = .next t →
    (∀ a, ¬ destinationBit i s t a → t.bitmem.get a = s.bitmem.get a) ∧
    (∀ p, ¬ destinationPixel i s t p → t.pixmem.get p = s.pixmem.get p)

/-- Only SPLIT and MERGE change FCOUNT, and NOP, FCLR and every failing command leave OLEN unchanged (rules R30,
R35). -/
def Obligations.OutputRegistersChangeOnlyOnSuccess : Prop :=
  ∀ (i : Instr) (s t : State), s.done = false → exec i s = .next t →
    (t.fcount ≠ s.fcount → t.done = true ∧ (i = .split ∨ i = .merge)) ∧
    (t.olen ≠ s.olen → t.done = true ∧ i ≠ .nop ∧ i ≠ .fclr)

/-- The key bits from L on are ignored: another key with the same first L bits gives the same outcome of every
command, but for the key itself (rule R40). -/
def Obligations.UnusedKeyBitsAreIgnored : Prop :=
  ∀ (i : Instr) (s : State) (key' : List Word),
    (∀ j, j < s.keylen.toNat → State.keyBit { s with key := key' } j = s.keyBit j) →
    ∀ t, exec i s = .next t → exec i { s with key := key' } = .next { t with key := key' }

/-! ### Consequences of the command rules -/

/-- ENC and DEC compute the same function: with a legal key and layout they lead to the same state, and the output bit
`i` is `(1 - s[i]) XOR ks(i)`, unspecified where `s[i]` is (rules R110, R51). -/
def Obligations.EncAndDecAreTheSameFunction : Prop :=
  ∀ s : State, keyOk s → layoutOk s (2 * (s.len.toNat / 2)) →
    ∃ t, exec .enc s = .next t ∧ exec .dec s = .next t ∧
      ∀ k, k < 2 * (s.len.toNat / 2) →
        t.bitmem.get (s.dst.toNat + k) =
          (s.bitmem.get (s.src.toNat + k)).map (fun b => (!b) ^^ keystreamBit s k)

/-- SUB of the output of SUB restores the input, whatever legal place the two outputs go to, an unspecified bit as an
unspecified one; of an odd input, all but the dangling bit (rules R111, R51). -/
def Obligations.SubTwiceRestores : Prop :=
  ∀ (s : State) (d : Word), layoutOk s (2 * (s.len.toNat / 2)) →
    layoutOk { s with src := s.dst, dst := d, len := BitVec.ofNat 32 (2 * (s.len.toNat / 2)) }
      (2 * (s.len.toNat / 2)) →
    ∃ t u, exec .sub s = .next t ∧ exec .sub { t with src := s.dst, dst := d, len := t.olen } = .next u ∧
      ∀ k, k < 2 * (s.len.toNat / 2) → u.bitmem.get (d.toNat + k) = s.bitmem.get (s.src.toNat + k)

/-- XOR of the output of XOR with the same key and phase restores the input, an unspecified bit as an unspecified one
(rules R111, R51). -/
def Obligations.XorTwiceRestores : Prop :=
  ∀ (s : State) (d : Word), keyOk s → layoutOk s s.len.toNat →
    layoutOk { s with src := s.dst, dst := d } s.len.toNat →
    ∃ t u, exec .xor s = .next t ∧ exec .xor { t with src := s.dst, dst := d } = .next u ∧
      ∀ k, k < s.len.toNat → u.bitmem.get (d.toNat + k) = s.bitmem.get (s.src.toNat + k)

/-- DEC of the output of ENC with the same key and phase restores the input, an unspecified bit as an unspecified one;
of an odd input, all but the dangling bit (rules R111, R51). -/
def Obligations.DecUndoesEnc : Prop :=
  ∀ (s : State) (d : Word), keyOk s → layoutOk s (2 * (s.len.toNat / 2)) →
    layoutOk { s with src := s.dst, dst := d, len := BitVec.ofNat 32 (2 * (s.len.toNat / 2)) }
      (2 * (s.len.toNat / 2)) →
    ∃ t u, exec .enc s = .next t ∧ exec .dec { t with src := s.dst, dst := d, len := t.olen } = .next u ∧
      ∀ k, k < 2 * (s.len.toNat / 2) → u.bitmem.get (d.toNat + k) = s.bitmem.get (s.src.toNat + k)

/-- Segmenting: enciphering bits [0, a) with phase P and then [a, LEN) with phase (P + a) mod L, `a` even, leaves
BITMEM as one ENC over [0, LEN) does, specified and unspecified bits alike (rules R112, R51). -/
def Obligations.SegmentedEncEqualsOneEnc : Prop :=
  ∀ (s : State) (a : Nat), s.params.wf → keyOk s → layoutOk s (2 * (s.len.toNat / 2)) →
    a % 2 = 0 → a ≤ s.len.toNat →
    ∃ t u v,
      exec .enc s = .next t ∧
      exec .enc { s with len := BitVec.ofNat 32 a } = .next u ∧
      exec .enc { u with
        src := BitVec.ofNat 32 (s.src.toNat + a), dst := BitVec.ofNat 32 (s.dst.toNat + a),
        len := BitVec.ofNat 32 (s.len.toNat - a),
        kphase := BitVec.ofNat 16 ((s.kphase.toNat + a) % s.keylen.toNat) } = .next v ∧
      ∀ x, v.bitmem.get x = t.bitmem.get x

/-- P2B inverts B2P: the bits come back wherever P2B puts them, an unspecified bit as an unspecified one (rules R122,
R51). -/
def Obligations.P2bInvertsB2p : Prop :=
  ∀ (s : State) (d : Word), s.src.toNat + s.len.toNat ≤ s.params.nb → s.dst.toNat + s.len.toNat ≤ s.params.np →
    d.toNat + s.len.toNat ≤ s.params.nb →
    ∃ t u, exec .b2p s = .next t ∧ exec .p2b { t with src := s.dst, dst := d } = .next u ∧
      ∀ k, k < s.len.toNat → u.bitmem.get (d.toNat + k) = s.bitmem.get (s.src.toNat + k)

/-- Splitting, pushing every frame in any order after FCLR, and merging gives the sequence back: MERGE succeeds with
`FCOUNT = N` and `OLEN = N * C`, and every pixel of the N frames is the one SPLIT left (rule R135). `frames` is what
the host read; where SPLIT's source was unspecified, whatever it read. -/
def Obligations.SplitPushMergeRestores : Prop :=
  ∀ (s : State) (n c : Nat) (order : List Nat) (frames : Nat → Pixel),
    s.params.wf → c = s.width.toNat * s.height.toNat → 0 < c → c ≤ s.params.cmax →
    s.len.toNat ≤ n * c → (∀ k, s.len.toNat ≤ k * c → n ≤ k) → n * c ≤ s.params.np →
    s.err = false → order.Perm (List.range n) →
    ∃ t u v w,
      exec .split s = .next t ∧
      (∀ p, p < s.len.toNat → t.pixmem.get p = s.pixmem.get p) ∧
      ((∀ p x, t.pixmem.get p = some x → frames p = x) →
        exec .fclr t = .next u ∧ pushFrames frames order u = some v ∧ exec .merge v = .next w ∧
        w.err = false ∧ w.fcount = BitVec.ofNat 32 n ∧ w.olen = BitVec.ofNat 32 (n * c) ∧
        (∀ p x, p < n * c → t.pixmem.get p = some x → w.pixmem.get p = some x) ∧
        (∀ p, p < n * c → w.pixmem.get p = some (frames p)))

/-- Pixel `k` of a frame stands at column `k mod W` and row `k div W`, inside the W × H canvas, and no two pixels
stand at the same place (rule R123). -/
def Obligations.CanvasIsRowMajor : Prop :=
  ∀ (s : State) (k : Nat), k < s.width.toNat * s.height.toNat →
    (canvasPosition s k).1 < s.width.toNat ∧ (canvasPosition s k).2 < s.height.toNat ∧
    (canvasPosition s k).2 * s.width.toNat + (canvasPosition s k).1 = k

/-! ### The invariant -/

/-- The state after reset meets the invariant. -/
def Obligations.ResetMeetsTheInvariant : Prop := State.Inv State.reset

/-- Every step keeps the invariant: the canonical memories and their bounds, the status rules of rule R49 and R168,
the frame bookkeeping. -/
def Obligations.EveryStepKeepsTheInvariant : Prop :=
  ∀ s t : State, s.Inv → step s = .next t → t.Inv

/-- In a state of the invariant MERGE's `N * C` never passes PIXMEM, so `OLEN` holds it exactly (rule R133). -/
def Obligations.MergedFramesFitPixmem : Prop :=
  ∀ s t : State, s.Inv → s.inflight ≠ none → exec .merge s = .next t → t.done = true →
    t.olen.toNat = t.fcount.toNat * s.capacity ∧ t.olen.toNat ≤ s.params.np

/-! ### Status, interrupt, registers and the bus (10_state.md, 20_memory.md, 43_control.md) -/

/-- The fields of the STATUS word stand where rule R24 puts them, and its reserved bits read 0. -/
def Obligations.StatusWordLayout : Prop :=
  ∀ s : State,
    (readReg s .status).getLsbD 0 = s.inflight.isSome ∧ (readReg s .status).getLsbD 1 = s.done ∧
    (readReg s .status).getLsbD 2 = s.err ∧ (readReg s .status).extractLsb' 3 5 = 0#5 ∧
    (readReg s .status).extractLsb' 8 8 = s.errCode ∧ (readReg s .status).extractLsb' 16 8 = s.errCmd ∧
    (readReg s .status).extractLsb' 24 8 = 0#8

/-- The interrupt output is the level of rule R156, in the bits the host reads. -/
def Obligations.InterruptIsTheLevelOfItsBits : Prop :=
  ∀ s : State, s.irq =
    (((readReg s .status).getLsbD 1 && (readReg s .irqEn).getLsbD 0) ||
      ((readReg s .status).getLsbD 2 && (readReg s .irqEn).getLsbD 1))

/-- A write of STATUS is W1C for DONE, the error clear for ERR, and changes nothing else (rules R155, R165). -/
def Obligations.StatusWriteClearsDoneAndErr : Prop :=
  ∀ (s : State) (v : Word) (rest : List HostInput), s.host = .write 4 0x008#26 v :: rest →
    hostTurn s (.write 4 0x008#26 v) →
    step s = .next { s with
      host := rest
      replies := .written :: s.replies
      done := if v.getLsbD 1 = true then false else s.done
      err := if v.getLsbD 2 = true then false else s.err
      errCode := if v.getLsbD 2 = true then 0#8 else s.errCode
      errCmd := if v.getLsbD 2 = true then 0#8 else s.errCmd
      errInfo := if v.getLsbD 2 = true then 0#32 else s.errInfo
      delay := delayAfter s }

/-- A register is read at the offset of rule R21's table, `KEY<n>` at 0x100 + 4n, and a read changes nothing but the
answer; so do the exempt reads performed while BUSY = 1 (rule R71). -/
def Obligations.RegistersAreReadAtTheirOffsets : Prop :=
  ∀ (s : State) (rest : List HostInput), s.params.wf →
    (∀ c ∈ registerPage s, s.host = .read 4 c.1 :: rest → hostTurn s (.read 4 c.1) →
      step s = .next { s with host := rest, replies := .data c.2 :: s.replies, delay := delayAfter s }) ∧
    (∀ n, n < s.params.kmax / 32 → s.host = .read 4 (BitVec.ofNat 26 (0x100 + 4 * n)) :: rest →
      hostTurn s (.read 4 (BitVec.ofNat 26 (0x100 + 4 * n))) →
      step s = .next { s with
        host := rest, replies := .data (s.key.getD n 0#32) :: s.replies, delay := delayAfter s })

/-- A write of an RW register stores the value less its reserved bits, which then reads back, and changes no other
register, no memory and no other field; so does the write of IRQ_EN performed while BUSY = 1 (rules R71, R157). -/
def Obligations.RegisterWriteReadsBack : Prop :=
  ∀ (s : State) (r : Reg) (mask v : Word) (rest : List HostInput), s.params.wf → s.key.length = s.params.kmax / 32 →
    hostTurn s (Program.wr r v) → storedBits r = some mask → (∀ n, r = .key n → n < s.params.kmax / 32) →
    s.host = Program.wr r v :: rest →
    ∃ t, step s = .next t ∧ readReg t r = v &&& mask ∧ (∀ r', r' ≠ r → readReg t r' = readReg s r') ∧
      t.bitmem = s.bitmem ∧ t.pixmem = s.pixmem ∧ t.stage = s.stage ∧ t.present = s.present ∧ t.pcap = s.pcap ∧
      t.params = s.params ∧ t.inflight = s.inflight ∧ t.delay = delayAfter s ∧ t.draws = s.draws ∧ t.host = rest ∧
      t.replies = .written :: s.replies

/-- A write of a read-only register is answered and has no effect (rule R48). -/
def Obligations.ReadOnlyRegistersIgnoreWrites : Prop :=
  ∀ (s : State) (r : Reg) (v : Word) (rest : List HostInput),
    r ∈ [Reg.id, .olen, .fcount, .errInfo, .paramNB, .paramNP, .paramCMAX, .paramKMAX] →
    s.inflight = none → s.host = Program.wr r v :: rest →
    step s = .next { s with host := rest, replies := .written :: s.replies }

/-- A read, performed while the block is idle or exempt while BUSY = 1, changes nothing in the HCB: only the answer and
the model's own counters (rules R68, R71). -/
def Obligations.ReadsHaveNoSideEffects : Prop :=
  ∀ (s t : State) (width : Nat) (off : Offset) (rest : List HostInput),
    hostTurn s (.read width off) → s.host = .read width off :: rest → step s = .next t →
    ∃ v, t = { s with host := rest, replies := .data v :: s.replies, delay := delayAfter s, draws := t.draws }

/-- An access whose turn it is, is answered exactly when it is 32 bits wide, aligned and mapped; every other
access is a bus error (rules R62, R67; that a bus error stops the run is rule R62's own treatment, log 8). -/
def Obligations.AccessesAreAnsweredExactlyWhenMapped : Prop :=
  ∀ (s : State) (width : Nat) (off : Offset) (v : Word) (rest : List HostInput) (a : HostInput),
    s.params.wf → hostTurn s a →
    (a = .read width off ∨ a = .write width off v) → s.host = a :: rest →
    ((width = 4 ∧ off.toNat % 4 = 0 ∧ mapped s.params off.toNat) → ∃ t, step s = .next t) ∧
    (¬ (width = 4 ∧ off.toNat % 4 = 0 ∧ mapped s.params off.toNat) → ∃ f, step s = .fault f)

/-- A BITMEM word holds `BIT(32w + k)` in word bit `lanebit(k)`: a write puts every bit there and changes no other
element, a read takes it from there (rule R64). -/
def Obligations.BitmemWordPacking : Prop :=
  ∀ (s : State) (w : Nat) (v : Word), s.inflight = none → s.params.wf → w < s.params.nb / 32 →
    (∀ rest, s.host = Program.wrb w v :: rest → ∃ m : Memory Bool,
      step s = .next { s with host := rest, replies := .written :: s.replies, bitmem := m } ∧
      (∀ k, k < 32 → m.get (32 * w + k) = some (v.getLsbD (8 * (k / 8) + 7 - k % 8))) ∧
      (∀ a, a < 32 * w ∨ 32 * w + 32 ≤ a → m.get a = s.bitmem.get a)) ∧
    (∀ rest, s.host = Program.rdb w :: rest → ∃ x : Word,
      step s = .next { s with host := rest, replies := .data x :: s.replies, draws := s.draws + 1 } ∧
      ∀ k, k < 32 → x.getLsbD (8 * (k / 8) + 7 - k % 8) = s.bit (32 * w + k))

/-- A written BITMEM word loads its four bytes in order of their addresses, each most significant bit first: byte `k`
becomes `BIT(32w + 8k)` to `BIT(32w + 8k + 7)` (rules R63, R64). -/
def Obligations.BytesAreLoadedMostSignificantBitFirst : Prop :=
  ∀ (s : State) (w : Nat) (v : Word) (rest : List HostInput), s.inflight = none → s.params.wf → w < s.params.nb / 32 →
    s.host = Program.wrb w v :: rest →
    ∃ t, step s = .next t ∧
      ∀ k j, k < 4 → j < 8 → t.bitmem.get (32 * w + 8 * k + j) = some ((byteLane v k).getLsbD (7 - j))

/-- A PIXMEM or STAGE word holds one pixel in bits [23:0]; bits [31:24] read 0 and are ignored on a write (rule
R65). -/
def Obligations.PixelWordFormat : Prop :=
  ∀ (s : State) (p : Nat) (v : Word) (rest : List HostInput), s.inflight = none → s.params.wf →
    (p < s.params.np → s.host = Program.wrp p v :: rest → ∃ m : Memory Pixel,
      step s = .next { s with host := rest, replies := .written :: s.replies, pixmem := m } ∧
      m.get p = some (v.extractLsb' 0 24) ∧ ∀ q, q ≠ p → m.get q = s.pixmem.get q) ∧
    (p < s.params.np → s.host = Program.rdp p :: rest →
      step s = .next { s with
        host := rest, replies := .data (0#8 ++ s.pix p) :: s.replies, draws := s.draws + 1 }) ∧
    (p < s.params.cmax → s.host = Program.wrs p v :: rest → ∃ m : Memory Pixel,
      step s = .next { s with host := rest, replies := .written :: s.replies, stage := m } ∧
      m.get p = some (v.extractLsb' 0 24) ∧ ∀ q, q ≠ p → m.get q = s.stage.get q) ∧
    (p < s.params.cmax → s.host = Program.rds p :: rest →
      step s = .next { s with
        host := rest, replies := .data (0#8 ++ s.stg p) :: s.replies, draws := s.draws + 1 })

/-- `KEYBIT(32n + k) = KEY<n>[lanebit(k)]` (rule R66). -/
def Obligations.KeyWordPacking : Prop :=
  ∀ (s : State) (n k : Nat), k < 32 →
    s.keyBit (32 * n + k) = (readReg s (.key n)).getLsbD (8 * (k / 8) + 7 - k % 8)

/-- The power-on state reads as rule R21's table says: ID and PARAM_* their constants, every other register 0, no
frame present, no capacity latched, no command in flight, `irq = 0`, every memory element unspecified (rule R181). The
step that performs the platform's power-on reset leads to it, from any state, a command in flight or not (rule R180; the
input itself is the model's choice, log 13). -/
def Obligations.PowerOnState : Prop :=
  (∀ (p : Params) (r : Reg),
    (readReg (State.powerOn p) r =
      match r with
      | .id => 0x48434201#32
      | .paramNB => BitVec.ofNat 32 p.nb
      | .paramNP => BitVec.ofNat 32 p.np
      | .paramCMAX => BitVec.ofNat 32 p.cmax
      | .paramKMAX => BitVec.ofNat 32 p.kmax
      | .ctrl | .status | .irqEn | .cmd | .src | .dst | .len | .olen | .width | .height | .fill | .fidx | .fcount
      | .errInfo | .keylen | .kphase | .key _ => 0#32) ∧
    (State.powerOn p).present = [] ∧ (State.powerOn p).pcap = 0#32 ∧ (State.powerOn p).inflight = none ∧
    (State.powerOn p).irq = false ∧
    ∀ a, (State.powerOn p).bitmem.get a = none ∧ (State.powerOn p).pixmem.get a = none ∧
      (State.powerOn p).stage.get a = none) ∧
  ∀ (s : State) (rest : List HostInput), s.host = .powerOn :: rest → hostTurn s .powerOn →
    step s = .next { State.powerOn s.params with draws := s.draws, host := rest, replies := s.replies }

/-- A soft reset with no command in flight puts every register, the frame bookkeeping and `irq` as power-on does and
leaves the memories unchanged; a CTRL write with bit 0 = 0 has no effect, whether BUSY is 0 or 1 (rules R154, R182). -/
def Obligations.SoftResetWhenIdle : Prop :=
  ∀ (s : State) (v : Word) (rest : List HostInput), s.host = .write 4 0x004#26 v :: rest →
    (s.inflight = none → v.getLsbD 0 = true → step s = .next { State.powerOn s.params with
      bitmem := s.bitmem, pixmem := s.pixmem, stage := s.stage,
      draws := s.draws, host := rest, replies := .written :: s.replies }) ∧
    (hostTurn s (.write 4 0x004#26 v) → v.getLsbD 0 = false →
      step s = .next { s with host := rest, replies := .written :: s.replies, delay := delayAfter s })

/-- A soft reset while a word is in flight abandons it: the registers are as after power-on, every element the command
would have written is unspecified, every other element is unchanged; of an illegal word every element (rule R183). `u`
is the state the engine step would have led to. -/
def Obligations.SoftResetDuringACommand : Prop :=
  ∀ (s : State) (w v : Word) (rest : List HostInput),
    s.params.wf → s.inflight = some w → s.done = false → 0 < s.delay → s.host = .write 4 0x004#26 v :: rest →
    v.getLsbD 0 = true →
    ∃ (u : State) (bm : Memory Bool) (pm : Memory Pixel),
      engineStep w s = .next u ∧
      step s = .next { State.powerOn s.params with
        bitmem := bm, pixmem := pm, stage := s.stage,
        draws := s.draws, host := rest, replies := .written :: s.replies } ∧
      (∀ a, (abandonedBit w s u a → bm.get a = none) ∧
        (¬ abandonedBit w s u a → bm.get a = s.bitmem.get a)) ∧
      (∀ p, (abandonedPixel w s u p → pm.get p = none) ∧
        (¬ abandonedPixel w s u p → pm.get p = s.pixmem.get p))
end

