-- ==== Sys2Proof/Laws/Decode.lean ====
section
/-! SUPPORT. What decoding and encoding do. -/

namespace Sys2Proof

@[simp] theorem opcField_encode (i : Instr) : opcField (encode i) = opcode i := by cases i <;> rfl

@[simp] theorem rsvField_encode (i : Instr) : rsvField (encode i) = 0#24 := by cases i <;> rfl

@[simp] theorem commandOf_opcode (i : Instr) : commandOf (opcode i) = some i := by cases i <;> rfl

@[simp] theorem encode_opc (i : Instr) : (encode i).extractLsb' 0 8 = opcode i := opcField_encode i

theorem opcField_toNat (w : Word) : (opcField w).toNat = w.toNat % 256 := by
  simp [opcField]

theorem rsvField_toNat (w : Word) : (rsvField w).toNat = w.toNat / 256 := by
  have := w.isLt
  simp only [rsvField, BitVec.extractLsb'_toNat, Nat.shiftRight_eq_div_pow]
  omega

theorem encode_toNat (i : Instr) : (encode i).toNat = (opcode i).toNat := by cases i <;> rfl

/-- The opcode map has one code for each command. -/
theorem commandOf_eq_some (b : Byte) (i : Instr) : commandOf b = some i ↔ b = opcode i := by
  constructor
  · intro h
    unfold commandOf at h
    repeat' split at h
    all_goals first
      | (obtain rfl := Option.some.inj h; assumption)
      | cases h
  · rintro rfl
    exact commandOf_opcode i

/-- A word with `RSV = 0` is known by its OPC. -/
theorem eq_encode_of_fields {w : Word} {i : Instr} (hr : rsvField w = 0#24) (ho : opcField w = opcode i) :
    w = encode i := by
  have h1 := congrArg BitVec.toNat hr
  have h2 := congrArg BitVec.toNat ho
  rw [rsvField_toNat] at h1
  rw [opcField_toNat] at h2
  apply BitVec.eq_of_toNat_eq
  rw [encode_toNat]
  simp only [BitVec.toNat_ofNat] at h1
  omega

end Sys2Proof
end

