-- ==== Sys2Proof/Laws/Memory.lean ====
section
/-! SUPPORT. What the memory operations do: read after write, and that each keeps the canonical form. -/

namespace Sys2Proof.Machine

variable {α β : Type}

@[simp] theorem Memory.get_nil (a : Nat) : Memory.get a ([] : Memory α) = none := rfl

theorem Memory.get_append (m n : Memory α) (a : Nat) : Memory.get a (m ++ n) = (Memory.get a m).or (Memory.get a n) := by
  induction m with
  | nil => simp
  | cons c rest ih => obtain ⟨k, v⟩ := c; simp only [List.cons_append, Memory.get]; split <;> simp [ih]

theorem Memory.get_below (m : Memory α) (hi a : Nat) :
    (m.below hi).get a = if a < hi then m.get a else none := by
  induction m with
  | nil => simp [Memory.below]
  | cons c rest ih =>
    obtain ⟨k, v⟩ := c
    simp only [Memory.below] at ih ⊢
    by_cases hk : k < hi <;> by_cases ha : k = a
    · subst ha; simp [Memory.get, hk]
    · simp [Memory.get, hk, ha, ih]
    · subst ha; simp [hk, ih]
    · simp [Memory.get, hk, ha, ih]

theorem Memory.get_above (m : Memory α) (lo a : Nat) :
    (m.above lo).get a = if lo ≤ a then m.get a else none := by
  induction m with
  | nil => simp [Memory.above]
  | cons c rest ih =>
    obtain ⟨k, v⟩ := c
    simp only [Memory.above] at ih ⊢
    by_cases hk : lo ≤ k <;> by_cases ha : k = a
    · subst ha; simp [Memory.get, hk]
    · simp [Memory.get, hk, ha, ih]
    · subst ha; simp [hk, ih]
    · simp [Memory.get, hk, ha, ih]

theorem Memory.get_listed (vs : List (Option α)) (base a : Nat) :
    (Memory.listed base vs).get a = if base ≤ a then vs[a - base]?.join else none := by
  induction vs generalizing base with
  | nil => simp [Memory.listed]
  | cons v vs ih =>
    have step : (Memory.listed base (v :: vs)).get a = if base = a then v else (Memory.listed (base + 1) vs).get a := by
      cases v with
      | some v => simp [Memory.listed, Memory.get]
      | none =>
        simp only [Memory.listed]
        split
        · rw [ih, if_neg (by omega)]
        · rfl
    rw [step, ih]
    by_cases h : base = a
    · simp [h]
    · by_cases h' : base ≤ a
      · have e : a - base = (a - (base + 1)) + 1 := by omega
        rw [if_neg h, if_pos (by omega), if_pos h', e, List.getElem?_cons_succ]
      · rw [if_neg h, if_neg (by omega), if_neg h']

/-- Read after store: an index of the stored range holds what was stored, specified or not, any other what it held. -/
theorem Memory.get_store (m : Memory α) (base : Nat) (vs : List (Option α)) (a : Nat) :
    (m.store base vs).get a = if base ≤ a ∧ a < base + vs.length then vs[a - base]?.join else m.get a := by
  simp only [Memory.store, Memory.get_append, Memory.get_below, Memory.get_listed, Memory.get_above]
  by_cases h1 : a < base
  · simp [h1, Nat.not_le.mpr h1, show ¬ base + vs.length ≤ a by omega]
  · by_cases h2 : a < base + vs.length
    · simp [h1, Nat.not_lt.mp h1, h2, show ¬ base + vs.length ≤ a by omega]
    · have h3 : vs.length ≤ a - base := by omega
      simp [h1, h2, Nat.not_lt.mp h1, Nat.not_lt.mp h2, h3]

/-- Read after write of specified values. -/
theorem Memory.get_write (m : Memory α) (base : Nat) (vs : List α) (a : Nat) :
    (m.write base vs).get a = if base ≤ a ∧ a < base + vs.length then vs[a - base]? else m.get a := by
  rw [Memory.write, Memory.get_store, List.length_map, List.getElem?_map]
  cases vs[a - base]? <;> rfl

/-- A forgotten range is unspecified, every other element is what it was. -/
theorem Memory.get_forget (m : Memory α) (base n a : Nat) :
    (m.forget base n).get a = if base ≤ a ∧ a < base + n then none else m.get a := by
  simp only [Memory.forget, Memory.get_append, Memory.get_below, Memory.get_above]
  by_cases h1 : a < base
  · simp [h1, Nat.not_le.mpr h1, show ¬ base + n ≤ a by omega]
  · by_cases h2 : a < base + n
    · simp [h1, h2, Nat.not_lt.mp h1]
    · simp [h1, h2, Nat.not_lt.mp h2]

theorem Memory.store_nil (m : Memory α) (base : Nat) (h : Memory.wf size m) : m.store base [] = m := by
  simp only [Memory.store, Memory.listed, List.nil_append, List.length_nil, Nat.add_zero, Memory.below, Memory.above]
  have hp := h.1
  clear h
  induction m with
  | nil => rfl
  | cons c rest ih =>
    obtain ⟨hc, hr⟩ := List.pairwise_cons.mp hp
    by_cases hk : c.1 < base
    · simp [hk, Nat.not_le.mpr hk, ih hr]
    · have h1 : rest.filter (fun c => decide (c.1 < base)) = [] := by
        simp only [List.filter_eq_nil_iff, decide_eq_true_eq]
        intro d hd
        have := hc d.1 (List.mem_map_of_mem hd)
        omega
      have h2 : rest.filter (fun c => decide (base ≤ c.1)) = rest := by
        simp only [List.filter_eq_self, decide_eq_true_eq]
        intro d hd
        have := hc d.1 (List.mem_map_of_mem hd)
        omega
      simp [hk, Nat.not_lt.mp hk, h1, h2]

theorem Memory.key_of_mem_listed (vs : List (Option α)) (base : Nat) :
    ∀ c ∈ Memory.listed base vs, base ≤ c.1 ∧ c.1 < base + vs.length := by
  induction vs generalizing base with
  | nil => simp [Memory.listed]
  | cons v vs ih =>
    intro c hc
    rw [List.length_cons]
    cases v with
    | none => have := ih _ c hc; omega
    | some v =>
      rcases List.mem_cons.mp hc with rfl | hc
      · simp
      · have := ih _ c hc; omega

theorem Memory.rising_listed (vs : List (Option α)) (base : Nat) :
    ((Memory.listed base vs).map Prod.fst).Pairwise (· < ·) := by
  induction vs generalizing base with
  | nil => simp [Memory.listed]
  | cons v vs ih =>
    cases v with
    | none => exact ih _
    | some v =>
      simp only [Memory.listed, List.map_cons, List.pairwise_cons, List.mem_map]
      refine ⟨?_, ih _⟩
      rintro _ ⟨c, hc, rfl⟩
      have := Memory.key_of_mem_listed vs (base + 1) c hc
      omega

/-- Two canonical parts, one wholly below the other, make a canonical memory. -/
theorem Memory.wf_append {size : Nat} {m n : Memory α} (hm : Memory.wf size m) (hn : Memory.wf size n)
    (h : ∀ c ∈ m, ∀ d ∈ n, c.1 < d.1) : Memory.wf size (m ++ n) := by
  refine ⟨?_, ?_⟩
  · rw [List.map_append, List.pairwise_append]
    refine ⟨hm.1, hn.1, ?_⟩
    simp only [List.mem_map]
    rintro _ ⟨c, hc, rfl⟩ _ ⟨d, hd, rfl⟩
    exact h c hc d hd
  · intro c hc
    rcases List.mem_append.mp hc with hc | hc
    · exact hm.2 c hc
    · exact hn.2 c hc

theorem Memory.wf_filter {size : Nat} {m : Memory α} (h : Memory.wf size m) (p : Nat × α → Bool) :
    Memory.wf size (m.filter p) :=
  ⟨h.1.sublist ((List.filter_sublist (l := m)).map _), fun c hc => h.2 c (List.mem_filter.mp hc).1⟩

/-- Storing a range inside the memory keeps the canonical form. -/
theorem Memory.wf_store {size : Nat} {m : Memory α} (h : Memory.wf size m) {base : Nat} {vs : List (Option α)}
    (hb : base + vs.length ≤ size) : Memory.wf size (m.store base vs) := by
  have hl : Memory.wf size (Memory.listed base vs) :=
    ⟨Memory.rising_listed vs base, fun c hc => by have := Memory.key_of_mem_listed vs base c hc; omega⟩
  refine Memory.wf_append (Memory.wf_filter h _) (Memory.wf_append hl (Memory.wf_filter h _) ?_) ?_
  · intro c hc d hd
    have h1 := Memory.key_of_mem_listed vs base c hc
    have h2 := of_decide_eq_true (List.mem_filter.mp hd).2
    omega
  · intro c hc d hd
    have h1 := of_decide_eq_true (List.mem_filter.mp hc).2
    rcases List.mem_append.mp hd with hd | hd
    · have h2 := Memory.key_of_mem_listed vs base d hd
      omega
    · have h2 := of_decide_eq_true (List.mem_filter.mp hd).2
      omega

/-- Writing specified values inside the memory keeps the canonical form. -/
theorem Memory.wf_write {size : Nat} {m : Memory α} (h : Memory.wf size m) {base : Nat} {vs : List α}
    (hb : base + vs.length ≤ size) : Memory.wf size (m.write base vs) := Memory.wf_store h (by simpa using hb)

/-- Forgetting a range keeps the canonical form. -/
theorem Memory.wf_forget {size : Nat} {m : Memory α} (h : Memory.wf size m) (base n : Nat) :
    Memory.wf size (m.forget base n) := by
  refine Memory.wf_append (Memory.wf_filter h _) (Memory.wf_filter h _) ?_
  intro c hc d hd
  have h1 := of_decide_eq_true (List.mem_filter.mp hc).2
  have h2 := of_decide_eq_true (List.mem_filter.mp hd).2
  omega

theorem Memory.wf_nil (size : Nat) : Memory.wf size ([] : Memory α) := by simp [Memory.wf]

/-- Two canonical memories that hold the same at every index are the same data. -/
theorem Memory.ext_get {size : Nat} {m n : Memory α} (hm : Memory.wf size m) (hn : Memory.wf size n)
    (h : ∀ a, m.get a = n.get a) : m = n := by
  have nolow : ∀ (l : Memory α) (a : Nat), (∀ c ∈ l, a < c.1) → l.get a = none := by
    intro l a hl
    induction l with
    | nil => rfl
    | cons c rest ih =>
      obtain ⟨k, v⟩ := c
      have hk : a < k := hl (k, v) (List.mem_cons_self ..)
      simp only [Memory.get, if_neg (show k ≠ a by omega)]
      exact ih (fun d hd => hl d (List.mem_cons_of_mem _ hd))
  have hp := hm.1; have hq := hn.1
  clear hm hn
  induction m generalizing n with
  | nil =>
    cases n with
    | nil => rfl
    | cons d rest => have := h d.1; simp [Memory.get] at this
  | cons c rest ih =>
    cases n with
    | nil => have := h c.1; simp [Memory.get] at this
    | cons d rest' =>
      obtain ⟨k, v⟩ := c
      obtain ⟨k', v'⟩ := d
      obtain ⟨hc, hr⟩ := List.pairwise_cons.mp hp
      obtain ⟨hd, hr'⟩ := List.pairwise_cons.mp hq
      have ltc : ∀ e ∈ rest, k < e.1 := fun e he => hc e.1 (List.mem_map_of_mem he)
      have ltd : ∀ e ∈ rest', k' < e.1 := fun e he => hd e.1 (List.mem_map_of_mem he)
      have hkk : k = k' := by
        rcases Nat.lt_trichotomy k k' with hlt | heq | hgt
        · have h1 := h k
          simp only [Memory.get, if_pos, if_neg (show k' ≠ k by omega)] at h1
          rw [nolow rest' k (fun e he => Nat.lt_trans hlt (ltd e he))] at h1
          simp at h1
        · exact heq
        · have h1 := h k'
          simp only [Memory.get, if_pos, if_neg (show k ≠ k' by omega)] at h1
          rw [nolow rest k' (fun e he => Nat.lt_trans hgt (ltc e he))] at h1
          simp at h1
      subst hkk
      have hv : v = v' := by have h1 := h k; simpa [Memory.get] using h1
      subst hv
      rw [ih (n := rest') ?_ hr hr']
      intro a
      have h1 := h a
      simp only [Memory.get] at h1
      by_cases hka : k = a
      · subst hka; rw [nolow rest k ltc, nolow rest' k ltd]
      · simpa [hka] using h1

@[simp] theorem readRange_length (f : Nat → α) (base n : Nat) : (readRange f base n).length = n := by
  induction n generalizing base with
  | zero => rfl
  | succ n ih => simp [readRange, ih]

theorem readRange_getElem? (f : Nat → α) (base n i : Nat) :
    (readRange f base n)[i]? = if i < n then some (f (base + i)) else none := by
  induction n generalizing base i with
  | zero => simp [readRange]
  | succ n ih =>
    cases i with
    | zero => simp [readRange]
    | succ i => simp [readRange, ih, Nat.add_assoc, Nat.add_comm 1 i]

@[simp] theorem readRange_getElem (f : Nat → α) (base n i : Nat) (h : i < (readRange f base n).length) :
    (readRange f base n)[i] = f (base + i) := by
  have h' := readRange_getElem? f base n i
  rw [readRange_length] at h
  rw [if_pos h, List.getElem?_eq_some_iff] at h'
  exact h'.2

/-- An element of a result is the element computed, where the source element of that index is specified. -/
theorem resultElements_get (src : List (Option α)) (out : List β) (i : Nat) :
    (resultElements src out)[i]?.join = src[i]?.join.bind (fun _ => out[i]?) := by
  rw [resultElements, List.getElem?_zipWith]
  cases src[i]? with
  | none => rfl
  | some x => cases out[i]? <;> cases x <;> rfl

end Sys2Proof.Machine
end

