-- ==== Sys2Proof/Laws/State.lean ====
section
/-! SUPPORT. One lemma per field per update of the state: a proof reads a field of an updated state by simp, without
unfolding the record update. -/

namespace Sys2Proof.Machine

variable (s : State)


/-! ### `complete`: the successful end of a command (rule R152) -/

@[simp] theorem complete_params : (complete s).params = s.params := rfl
@[simp] theorem complete_done : (complete s).done = true := rfl
@[simp] theorem complete_err : (complete s).err = s.err := rfl
@[simp] theorem complete_errCode : (complete s).errCode = s.errCode := rfl
@[simp] theorem complete_errCmd : (complete s).errCmd = s.errCmd := rfl
@[simp] theorem complete_doneIE : (complete s).doneIE = s.doneIE := rfl
@[simp] theorem complete_errIE : (complete s).errIE = s.errIE := rfl
@[simp] theorem complete_src : (complete s).src = s.src := rfl
@[simp] theorem complete_dst : (complete s).dst = s.dst := rfl
@[simp] theorem complete_len : (complete s).len = s.len := rfl
@[simp] theorem complete_olen : (complete s).olen = s.olen := rfl
@[simp] theorem complete_width : (complete s).width = s.width := rfl
@[simp] theorem complete_height : (complete s).height = s.height := rfl
@[simp] theorem complete_fill : (complete s).fill = s.fill := rfl
@[simp] theorem complete_fidx : (complete s).fidx = s.fidx := rfl
@[simp] theorem complete_fcount : (complete s).fcount = s.fcount := rfl
@[simp] theorem complete_errInfo : (complete s).errInfo = s.errInfo := rfl
@[simp] theorem complete_keylen : (complete s).keylen = s.keylen := rfl
@[simp] theorem complete_kphase : (complete s).kphase = s.kphase := rfl
@[simp] theorem complete_key : (complete s).key = s.key := rfl
@[simp] theorem complete_bitmem : (complete s).bitmem = s.bitmem := rfl
@[simp] theorem complete_pixmem : (complete s).pixmem = s.pixmem := rfl
@[simp] theorem complete_stage : (complete s).stage = s.stage := rfl
@[simp] theorem complete_present : (complete s).present = s.present := rfl
@[simp] theorem complete_pcap : (complete s).pcap = s.pcap := rfl
@[simp] theorem complete_inflight : (complete s).inflight = none := rfl
@[simp] theorem complete_delay : (complete s).delay = 0 := rfl
@[simp] theorem complete_draws : (complete s).draws = s.draws := rfl
@[simp] theorem complete_host : (complete s).host = s.host := rfl
@[simp] theorem complete_replies : (complete s).replies = s.replies := rfl

/-! ### `raiseError`: the error entry (rule R163) -/

@[simp] theorem raiseError_params (w : Word) (e : CmdError) : (raiseError w e s).params = s.params := rfl
@[simp] theorem raiseError_done (w : Word) (e : CmdError) : (raiseError w e s).done = s.done := rfl
@[simp] theorem raiseError_err (w : Word) (e : CmdError) : (raiseError w e s).err = true := rfl
@[simp] theorem raiseError_errCode (w : Word) (e : CmdError) : (raiseError w e s).errCode = e.code.byte := rfl
@[simp] theorem raiseError_errCmd (w : Word) (e : CmdError) : (raiseError w e s).errCmd = w.extractLsb' 0 8 := rfl
@[simp] theorem raiseError_doneIE (w : Word) (e : CmdError) : (raiseError w e s).doneIE = s.doneIE := rfl
@[simp] theorem raiseError_errIE (w : Word) (e : CmdError) : (raiseError w e s).errIE = s.errIE := rfl
@[simp] theorem raiseError_src (w : Word) (e : CmdError) : (raiseError w e s).src = s.src := rfl
@[simp] theorem raiseError_dst (w : Word) (e : CmdError) : (raiseError w e s).dst = s.dst := rfl
@[simp] theorem raiseError_len (w : Word) (e : CmdError) : (raiseError w e s).len = s.len := rfl
@[simp] theorem raiseError_olen (w : Word) (e : CmdError) : (raiseError w e s).olen = s.olen := rfl
@[simp] theorem raiseError_width (w : Word) (e : CmdError) : (raiseError w e s).width = s.width := rfl
@[simp] theorem raiseError_height (w : Word) (e : CmdError) : (raiseError w e s).height = s.height := rfl
@[simp] theorem raiseError_fill (w : Word) (e : CmdError) : (raiseError w e s).fill = s.fill := rfl
@[simp] theorem raiseError_fidx (w : Word) (e : CmdError) : (raiseError w e s).fidx = s.fidx := rfl
@[simp] theorem raiseError_fcount (w : Word) (e : CmdError) : (raiseError w e s).fcount = s.fcount := rfl
@[simp] theorem raiseError_errInfo (w : Word) (e : CmdError) : (raiseError w e s).errInfo = e.info := rfl
@[simp] theorem raiseError_keylen (w : Word) (e : CmdError) : (raiseError w e s).keylen = s.keylen := rfl
@[simp] theorem raiseError_kphase (w : Word) (e : CmdError) : (raiseError w e s).kphase = s.kphase := rfl
@[simp] theorem raiseError_key (w : Word) (e : CmdError) : (raiseError w e s).key = s.key := rfl
@[simp] theorem raiseError_bitmem (w : Word) (e : CmdError) : (raiseError w e s).bitmem = s.bitmem := rfl
@[simp] theorem raiseError_pixmem (w : Word) (e : CmdError) : (raiseError w e s).pixmem = s.pixmem := rfl
@[simp] theorem raiseError_stage (w : Word) (e : CmdError) : (raiseError w e s).stage = s.stage := rfl
@[simp] theorem raiseError_present (w : Word) (e : CmdError) : (raiseError w e s).present = s.present := rfl
@[simp] theorem raiseError_pcap (w : Word) (e : CmdError) : (raiseError w e s).pcap = s.pcap := rfl
@[simp] theorem raiseError_inflight (w : Word) (e : CmdError) : (raiseError w e s).inflight = none := rfl
@[simp] theorem raiseError_delay (w : Word) (e : CmdError) : (raiseError w e s).delay = 0 := rfl
@[simp] theorem raiseError_draws (w : Word) (e : CmdError) : (raiseError w e s).draws = s.draws := rfl
@[simp] theorem raiseError_host (w : Word) (e : CmdError) : (raiseError w e s).host = s.host := rfl
@[simp] theorem raiseError_replies (w : Word) (e : CmdError) : (raiseError w e s).replies = s.replies := rfl

/-! ### `clearError`: the error clear (rule R165) -/

@[simp] theorem clearError_params : (clearError s).params = s.params := rfl
@[simp] theorem clearError_done : (clearError s).done = s.done := rfl
@[simp] theorem clearError_err : (clearError s).err = false := rfl
@[simp] theorem clearError_errCode : (clearError s).errCode = 0#8 := rfl
@[simp] theorem clearError_errCmd : (clearError s).errCmd = 0#8 := rfl
@[simp] theorem clearError_doneIE : (clearError s).doneIE = s.doneIE := rfl
@[simp] theorem clearError_errIE : (clearError s).errIE = s.errIE := rfl
@[simp] theorem clearError_src : (clearError s).src = s.src := rfl
@[simp] theorem clearError_dst : (clearError s).dst = s.dst := rfl
@[simp] theorem clearError_len : (clearError s).len = s.len := rfl
@[simp] theorem clearError_olen : (clearError s).olen = s.olen := rfl
@[simp] theorem clearError_width : (clearError s).width = s.width := rfl
@[simp] theorem clearError_height : (clearError s).height = s.height := rfl
@[simp] theorem clearError_fill : (clearError s).fill = s.fill := rfl
@[simp] theorem clearError_fidx : (clearError s).fidx = s.fidx := rfl
@[simp] theorem clearError_fcount : (clearError s).fcount = s.fcount := rfl
@[simp] theorem clearError_errInfo : (clearError s).errInfo = 0#32 := rfl
@[simp] theorem clearError_keylen : (clearError s).keylen = s.keylen := rfl
@[simp] theorem clearError_kphase : (clearError s).kphase = s.kphase := rfl
@[simp] theorem clearError_key : (clearError s).key = s.key := rfl
@[simp] theorem clearError_bitmem : (clearError s).bitmem = s.bitmem := rfl
@[simp] theorem clearError_pixmem : (clearError s).pixmem = s.pixmem := rfl
@[simp] theorem clearError_stage : (clearError s).stage = s.stage := rfl
@[simp] theorem clearError_present : (clearError s).present = s.present := rfl
@[simp] theorem clearError_pcap : (clearError s).pcap = s.pcap := rfl
@[simp] theorem clearError_inflight : (clearError s).inflight = s.inflight := rfl
@[simp] theorem clearError_delay : (clearError s).delay = s.delay := rfl
@[simp] theorem clearError_draws : (clearError s).draws = s.draws := rfl
@[simp] theorem clearError_host : (clearError s).host = s.host := rfl
@[simp] theorem clearError_replies : (clearError s).replies = s.replies := rfl

/-! ### `tick`: one more free value drawn -/

@[simp] theorem tick_params : (tick s).params = s.params := rfl
@[simp] theorem tick_done : (tick s).done = s.done := rfl
@[simp] theorem tick_err : (tick s).err = s.err := rfl
@[simp] theorem tick_errCode : (tick s).errCode = s.errCode := rfl
@[simp] theorem tick_errCmd : (tick s).errCmd = s.errCmd := rfl
@[simp] theorem tick_doneIE : (tick s).doneIE = s.doneIE := rfl
@[simp] theorem tick_errIE : (tick s).errIE = s.errIE := rfl
@[simp] theorem tick_src : (tick s).src = s.src := rfl
@[simp] theorem tick_dst : (tick s).dst = s.dst := rfl
@[simp] theorem tick_len : (tick s).len = s.len := rfl
@[simp] theorem tick_olen : (tick s).olen = s.olen := rfl
@[simp] theorem tick_width : (tick s).width = s.width := rfl
@[simp] theorem tick_height : (tick s).height = s.height := rfl
@[simp] theorem tick_fill : (tick s).fill = s.fill := rfl
@[simp] theorem tick_fidx : (tick s).fidx = s.fidx := rfl
@[simp] theorem tick_fcount : (tick s).fcount = s.fcount := rfl
@[simp] theorem tick_errInfo : (tick s).errInfo = s.errInfo := rfl
@[simp] theorem tick_keylen : (tick s).keylen = s.keylen := rfl
@[simp] theorem tick_kphase : (tick s).kphase = s.kphase := rfl
@[simp] theorem tick_key : (tick s).key = s.key := rfl
@[simp] theorem tick_bitmem : (tick s).bitmem = s.bitmem := rfl
@[simp] theorem tick_pixmem : (tick s).pixmem = s.pixmem := rfl
@[simp] theorem tick_stage : (tick s).stage = s.stage := rfl
@[simp] theorem tick_present : (tick s).present = s.present := rfl
@[simp] theorem tick_pcap : (tick s).pcap = s.pcap := rfl
@[simp] theorem tick_inflight : (tick s).inflight = s.inflight := rfl
@[simp] theorem tick_delay : (tick s).delay = s.delay := rfl
@[simp] theorem tick_draws : (tick s).draws = s.draws + 1 := rfl
@[simp] theorem tick_host : (tick s).host = s.host := rfl
@[simp] theorem tick_replies : (tick s).replies = s.replies := rfl

/-! ### `writeBits`: a write to BITMEM -/

@[simp] theorem writeBits_params (base : Nat) (vs : List (Option Bool)) : (writeBits base vs s).params = s.params := rfl
@[simp] theorem writeBits_done (base : Nat) (vs : List (Option Bool)) : (writeBits base vs s).done = s.done := rfl
@[simp] theorem writeBits_err (base : Nat) (vs : List (Option Bool)) : (writeBits base vs s).err = s.err := rfl
@[simp] theorem writeBits_errCode (base : Nat) (vs : List (Option Bool)) : (writeBits base vs s).errCode = s.errCode := rfl
@[simp] theorem writeBits_errCmd (base : Nat) (vs : List (Option Bool)) : (writeBits base vs s).errCmd = s.errCmd := rfl
@[simp] theorem writeBits_doneIE (base : Nat) (vs : List (Option Bool)) : (writeBits base vs s).doneIE = s.doneIE := rfl
@[simp] theorem writeBits_errIE (base : Nat) (vs : List (Option Bool)) : (writeBits base vs s).errIE = s.errIE := rfl
@[simp] theorem writeBits_src (base : Nat) (vs : List (Option Bool)) : (writeBits base vs s).src = s.src := rfl
@[simp] theorem writeBits_dst (base : Nat) (vs : List (Option Bool)) : (writeBits base vs s).dst = s.dst := rfl
@[simp] theorem writeBits_len (base : Nat) (vs : List (Option Bool)) : (writeBits base vs s).len = s.len := rfl
@[simp] theorem writeBits_olen (base : Nat) (vs : List (Option Bool)) : (writeBits base vs s).olen = s.olen := rfl
@[simp] theorem writeBits_width (base : Nat) (vs : List (Option Bool)) : (writeBits base vs s).width = s.width := rfl
@[simp] theorem writeBits_height (base : Nat) (vs : List (Option Bool)) : (writeBits base vs s).height = s.height := rfl
@[simp] theorem writeBits_fill (base : Nat) (vs : List (Option Bool)) : (writeBits base vs s).fill = s.fill := rfl
@[simp] theorem writeBits_fidx (base : Nat) (vs : List (Option Bool)) : (writeBits base vs s).fidx = s.fidx := rfl
@[simp] theorem writeBits_fcount (base : Nat) (vs : List (Option Bool)) : (writeBits base vs s).fcount = s.fcount := rfl
@[simp] theorem writeBits_errInfo (base : Nat) (vs : List (Option Bool)) : (writeBits base vs s).errInfo = s.errInfo := rfl
@[simp] theorem writeBits_keylen (base : Nat) (vs : List (Option Bool)) : (writeBits base vs s).keylen = s.keylen := rfl
@[simp] theorem writeBits_kphase (base : Nat) (vs : List (Option Bool)) : (writeBits base vs s).kphase = s.kphase := rfl
@[simp] theorem writeBits_key (base : Nat) (vs : List (Option Bool)) : (writeBits base vs s).key = s.key := rfl
@[simp] theorem writeBits_bitmem (base : Nat) (vs : List (Option Bool)) : (writeBits base vs s).bitmem = s.bitmem.store base vs := rfl
@[simp] theorem writeBits_pixmem (base : Nat) (vs : List (Option Bool)) : (writeBits base vs s).pixmem = s.pixmem := rfl
@[simp] theorem writeBits_stage (base : Nat) (vs : List (Option Bool)) : (writeBits base vs s).stage = s.stage := rfl
@[simp] theorem writeBits_present (base : Nat) (vs : List (Option Bool)) : (writeBits base vs s).present = s.present := rfl
@[simp] theorem writeBits_pcap (base : Nat) (vs : List (Option Bool)) : (writeBits base vs s).pcap = s.pcap := rfl
@[simp] theorem writeBits_inflight (base : Nat) (vs : List (Option Bool)) : (writeBits base vs s).inflight = s.inflight := rfl
@[simp] theorem writeBits_delay (base : Nat) (vs : List (Option Bool)) : (writeBits base vs s).delay = s.delay := rfl
@[simp] theorem writeBits_draws (base : Nat) (vs : List (Option Bool)) : (writeBits base vs s).draws = s.draws := rfl
@[simp] theorem writeBits_host (base : Nat) (vs : List (Option Bool)) : (writeBits base vs s).host = s.host := rfl
@[simp] theorem writeBits_replies (base : Nat) (vs : List (Option Bool)) : (writeBits base vs s).replies = s.replies := rfl

/-! ### `writePixels`: a write to PIXMEM -/

@[simp] theorem writePixels_params (base : Nat) (vs : List (Option Pixel)) : (writePixels base vs s).params = s.params := rfl
@[simp] theorem writePixels_done (base : Nat) (vs : List (Option Pixel)) : (writePixels base vs s).done = s.done := rfl
@[simp] theorem writePixels_err (base : Nat) (vs : List (Option Pixel)) : (writePixels base vs s).err = s.err := rfl
@[simp] theorem writePixels_errCode (base : Nat) (vs : List (Option Pixel)) : (writePixels base vs s).errCode = s.errCode := rfl
@[simp] theorem writePixels_errCmd (base : Nat) (vs : List (Option Pixel)) : (writePixels base vs s).errCmd = s.errCmd := rfl
@[simp] theorem writePixels_doneIE (base : Nat) (vs : List (Option Pixel)) : (writePixels base vs s).doneIE = s.doneIE := rfl
@[simp] theorem writePixels_errIE (base : Nat) (vs : List (Option Pixel)) : (writePixels base vs s).errIE = s.errIE := rfl
@[simp] theorem writePixels_src (base : Nat) (vs : List (Option Pixel)) : (writePixels base vs s).src = s.src := rfl
@[simp] theorem writePixels_dst (base : Nat) (vs : List (Option Pixel)) : (writePixels base vs s).dst = s.dst := rfl
@[simp] theorem writePixels_len (base : Nat) (vs : List (Option Pixel)) : (writePixels base vs s).len = s.len := rfl
@[simp] theorem writePixels_olen (base : Nat) (vs : List (Option Pixel)) : (writePixels base vs s).olen = s.olen := rfl
@[simp] theorem writePixels_width (base : Nat) (vs : List (Option Pixel)) : (writePixels base vs s).width = s.width := rfl
@[simp] theorem writePixels_height (base : Nat) (vs : List (Option Pixel)) : (writePixels base vs s).height = s.height := rfl
@[simp] theorem writePixels_fill (base : Nat) (vs : List (Option Pixel)) : (writePixels base vs s).fill = s.fill := rfl
@[simp] theorem writePixels_fidx (base : Nat) (vs : List (Option Pixel)) : (writePixels base vs s).fidx = s.fidx := rfl
@[simp] theorem writePixels_fcount (base : Nat) (vs : List (Option Pixel)) : (writePixels base vs s).fcount = s.fcount := rfl
@[simp] theorem writePixels_errInfo (base : Nat) (vs : List (Option Pixel)) : (writePixels base vs s).errInfo = s.errInfo := rfl
@[simp] theorem writePixels_keylen (base : Nat) (vs : List (Option Pixel)) : (writePixels base vs s).keylen = s.keylen := rfl
@[simp] theorem writePixels_kphase (base : Nat) (vs : List (Option Pixel)) : (writePixels base vs s).kphase = s.kphase := rfl
@[simp] theorem writePixels_key (base : Nat) (vs : List (Option Pixel)) : (writePixels base vs s).key = s.key := rfl
@[simp] theorem writePixels_bitmem (base : Nat) (vs : List (Option Pixel)) : (writePixels base vs s).bitmem = s.bitmem := rfl
@[simp] theorem writePixels_pixmem (base : Nat) (vs : List (Option Pixel)) : (writePixels base vs s).pixmem = s.pixmem.store base vs := rfl
@[simp] theorem writePixels_stage (base : Nat) (vs : List (Option Pixel)) : (writePixels base vs s).stage = s.stage := rfl
@[simp] theorem writePixels_present (base : Nat) (vs : List (Option Pixel)) : (writePixels base vs s).present = s.present := rfl
@[simp] theorem writePixels_pcap (base : Nat) (vs : List (Option Pixel)) : (writePixels base vs s).pcap = s.pcap := rfl
@[simp] theorem writePixels_inflight (base : Nat) (vs : List (Option Pixel)) : (writePixels base vs s).inflight = s.inflight := rfl
@[simp] theorem writePixels_delay (base : Nat) (vs : List (Option Pixel)) : (writePixels base vs s).delay = s.delay := rfl
@[simp] theorem writePixels_draws (base : Nat) (vs : List (Option Pixel)) : (writePixels base vs s).draws = s.draws := rfl
@[simp] theorem writePixels_host (base : Nat) (vs : List (Option Pixel)) : (writePixels base vs s).host = s.host := rfl
@[simp] theorem writePixels_replies (base : Nat) (vs : List (Option Pixel)) : (writePixels base vs s).replies = s.replies := rfl

/-! ### `writeStaged`: a write to STAGE -/

@[simp] theorem writeStaged_params (base : Nat) (vs : List (Option Pixel)) : (writeStaged base vs s).params = s.params := rfl
@[simp] theorem writeStaged_done (base : Nat) (vs : List (Option Pixel)) : (writeStaged base vs s).done = s.done := rfl
@[simp] theorem writeStaged_err (base : Nat) (vs : List (Option Pixel)) : (writeStaged base vs s).err = s.err := rfl
@[simp] theorem writeStaged_errCode (base : Nat) (vs : List (Option Pixel)) : (writeStaged base vs s).errCode = s.errCode := rfl
@[simp] theorem writeStaged_errCmd (base : Nat) (vs : List (Option Pixel)) : (writeStaged base vs s).errCmd = s.errCmd := rfl
@[simp] theorem writeStaged_doneIE (base : Nat) (vs : List (Option Pixel)) : (writeStaged base vs s).doneIE = s.doneIE := rfl
@[simp] theorem writeStaged_errIE (base : Nat) (vs : List (Option Pixel)) : (writeStaged base vs s).errIE = s.errIE := rfl
@[simp] theorem writeStaged_src (base : Nat) (vs : List (Option Pixel)) : (writeStaged base vs s).src = s.src := rfl
@[simp] theorem writeStaged_dst (base : Nat) (vs : List (Option Pixel)) : (writeStaged base vs s).dst = s.dst := rfl
@[simp] theorem writeStaged_len (base : Nat) (vs : List (Option Pixel)) : (writeStaged base vs s).len = s.len := rfl
@[simp] theorem writeStaged_olen (base : Nat) (vs : List (Option Pixel)) : (writeStaged base vs s).olen = s.olen := rfl
@[simp] theorem writeStaged_width (base : Nat) (vs : List (Option Pixel)) : (writeStaged base vs s).width = s.width := rfl
@[simp] theorem writeStaged_height (base : Nat) (vs : List (Option Pixel)) : (writeStaged base vs s).height = s.height := rfl
@[simp] theorem writeStaged_fill (base : Nat) (vs : List (Option Pixel)) : (writeStaged base vs s).fill = s.fill := rfl
@[simp] theorem writeStaged_fidx (base : Nat) (vs : List (Option Pixel)) : (writeStaged base vs s).fidx = s.fidx := rfl
@[simp] theorem writeStaged_fcount (base : Nat) (vs : List (Option Pixel)) : (writeStaged base vs s).fcount = s.fcount := rfl
@[simp] theorem writeStaged_errInfo (base : Nat) (vs : List (Option Pixel)) : (writeStaged base vs s).errInfo = s.errInfo := rfl
@[simp] theorem writeStaged_keylen (base : Nat) (vs : List (Option Pixel)) : (writeStaged base vs s).keylen = s.keylen := rfl
@[simp] theorem writeStaged_kphase (base : Nat) (vs : List (Option Pixel)) : (writeStaged base vs s).kphase = s.kphase := rfl
@[simp] theorem writeStaged_key (base : Nat) (vs : List (Option Pixel)) : (writeStaged base vs s).key = s.key := rfl
@[simp] theorem writeStaged_bitmem (base : Nat) (vs : List (Option Pixel)) : (writeStaged base vs s).bitmem = s.bitmem := rfl
@[simp] theorem writeStaged_pixmem (base : Nat) (vs : List (Option Pixel)) : (writeStaged base vs s).pixmem = s.pixmem := rfl
@[simp] theorem writeStaged_stage (base : Nat) (vs : List (Option Pixel)) : (writeStaged base vs s).stage = s.stage.store base vs := rfl
@[simp] theorem writeStaged_present (base : Nat) (vs : List (Option Pixel)) : (writeStaged base vs s).present = s.present := rfl
@[simp] theorem writeStaged_pcap (base : Nat) (vs : List (Option Pixel)) : (writeStaged base vs s).pcap = s.pcap := rfl
@[simp] theorem writeStaged_inflight (base : Nat) (vs : List (Option Pixel)) : (writeStaged base vs s).inflight = s.inflight := rfl
@[simp] theorem writeStaged_delay (base : Nat) (vs : List (Option Pixel)) : (writeStaged base vs s).delay = s.delay := rfl
@[simp] theorem writeStaged_draws (base : Nat) (vs : List (Option Pixel)) : (writeStaged base vs s).draws = s.draws := rfl
@[simp] theorem writeStaged_host (base : Nat) (vs : List (Option Pixel)) : (writeStaged base vs s).host = s.host := rfl
@[simp] theorem writeStaged_replies (base : Nat) (vs : List (Option Pixel)) : (writeStaged base vs s).replies = s.replies := rfl

/-! ### `setOlen`: a write of OLEN -/

@[simp] theorem setOlen_params (n : Nat) : (setOlen n s).params = s.params := rfl
@[simp] theorem setOlen_done (n : Nat) : (setOlen n s).done = s.done := rfl
@[simp] theorem setOlen_err (n : Nat) : (setOlen n s).err = s.err := rfl
@[simp] theorem setOlen_errCode (n : Nat) : (setOlen n s).errCode = s.errCode := rfl
@[simp] theorem setOlen_errCmd (n : Nat) : (setOlen n s).errCmd = s.errCmd := rfl
@[simp] theorem setOlen_doneIE (n : Nat) : (setOlen n s).doneIE = s.doneIE := rfl
@[simp] theorem setOlen_errIE (n : Nat) : (setOlen n s).errIE = s.errIE := rfl
@[simp] theorem setOlen_src (n : Nat) : (setOlen n s).src = s.src := rfl
@[simp] theorem setOlen_dst (n : Nat) : (setOlen n s).dst = s.dst := rfl
@[simp] theorem setOlen_len (n : Nat) : (setOlen n s).len = s.len := rfl
@[simp] theorem setOlen_olen (n : Nat) : (setOlen n s).olen = BitVec.ofNat 32 n := rfl
@[simp] theorem setOlen_width (n : Nat) : (setOlen n s).width = s.width := rfl
@[simp] theorem setOlen_height (n : Nat) : (setOlen n s).height = s.height := rfl
@[simp] theorem setOlen_fill (n : Nat) : (setOlen n s).fill = s.fill := rfl
@[simp] theorem setOlen_fidx (n : Nat) : (setOlen n s).fidx = s.fidx := rfl
@[simp] theorem setOlen_fcount (n : Nat) : (setOlen n s).fcount = s.fcount := rfl
@[simp] theorem setOlen_errInfo (n : Nat) : (setOlen n s).errInfo = s.errInfo := rfl
@[simp] theorem setOlen_keylen (n : Nat) : (setOlen n s).keylen = s.keylen := rfl
@[simp] theorem setOlen_kphase (n : Nat) : (setOlen n s).kphase = s.kphase := rfl
@[simp] theorem setOlen_key (n : Nat) : (setOlen n s).key = s.key := rfl
@[simp] theorem setOlen_bitmem (n : Nat) : (setOlen n s).bitmem = s.bitmem := rfl
@[simp] theorem setOlen_pixmem (n : Nat) : (setOlen n s).pixmem = s.pixmem := rfl
@[simp] theorem setOlen_stage (n : Nat) : (setOlen n s).stage = s.stage := rfl
@[simp] theorem setOlen_present (n : Nat) : (setOlen n s).present = s.present := rfl
@[simp] theorem setOlen_pcap (n : Nat) : (setOlen n s).pcap = s.pcap := rfl
@[simp] theorem setOlen_inflight (n : Nat) : (setOlen n s).inflight = s.inflight := rfl
@[simp] theorem setOlen_delay (n : Nat) : (setOlen n s).delay = s.delay := rfl
@[simp] theorem setOlen_draws (n : Nat) : (setOlen n s).draws = s.draws := rfl
@[simp] theorem setOlen_host (n : Nat) : (setOlen n s).host = s.host := rfl
@[simp] theorem setOlen_replies (n : Nat) : (setOlen n s).replies = s.replies := rfl

/-! ### `setFcount`: a write of FCOUNT -/

@[simp] theorem setFcount_params (n : Nat) : (setFcount n s).params = s.params := rfl
@[simp] theorem setFcount_done (n : Nat) : (setFcount n s).done = s.done := rfl
@[simp] theorem setFcount_err (n : Nat) : (setFcount n s).err = s.err := rfl
@[simp] theorem setFcount_errCode (n : Nat) : (setFcount n s).errCode = s.errCode := rfl
@[simp] theorem setFcount_errCmd (n : Nat) : (setFcount n s).errCmd = s.errCmd := rfl
@[simp] theorem setFcount_doneIE (n : Nat) : (setFcount n s).doneIE = s.doneIE := rfl
@[simp] theorem setFcount_errIE (n : Nat) : (setFcount n s).errIE = s.errIE := rfl
@[simp] theorem setFcount_src (n : Nat) : (setFcount n s).src = s.src := rfl
@[simp] theorem setFcount_dst (n : Nat) : (setFcount n s).dst = s.dst := rfl
@[simp] theorem setFcount_len (n : Nat) : (setFcount n s).len = s.len := rfl
@[simp] theorem setFcount_olen (n : Nat) : (setFcount n s).olen = s.olen := rfl
@[simp] theorem setFcount_width (n : Nat) : (setFcount n s).width = s.width := rfl
@[simp] theorem setFcount_height (n : Nat) : (setFcount n s).height = s.height := rfl
@[simp] theorem setFcount_fill (n : Nat) : (setFcount n s).fill = s.fill := rfl
@[simp] theorem setFcount_fidx (n : Nat) : (setFcount n s).fidx = s.fidx := rfl
@[simp] theorem setFcount_fcount (n : Nat) : (setFcount n s).fcount = BitVec.ofNat 32 n := rfl
@[simp] theorem setFcount_errInfo (n : Nat) : (setFcount n s).errInfo = s.errInfo := rfl
@[simp] theorem setFcount_keylen (n : Nat) : (setFcount n s).keylen = s.keylen := rfl
@[simp] theorem setFcount_kphase (n : Nat) : (setFcount n s).kphase = s.kphase := rfl
@[simp] theorem setFcount_key (n : Nat) : (setFcount n s).key = s.key := rfl
@[simp] theorem setFcount_bitmem (n : Nat) : (setFcount n s).bitmem = s.bitmem := rfl
@[simp] theorem setFcount_pixmem (n : Nat) : (setFcount n s).pixmem = s.pixmem := rfl
@[simp] theorem setFcount_stage (n : Nat) : (setFcount n s).stage = s.stage := rfl
@[simp] theorem setFcount_present (n : Nat) : (setFcount n s).present = s.present := rfl
@[simp] theorem setFcount_pcap (n : Nat) : (setFcount n s).pcap = s.pcap := rfl
@[simp] theorem setFcount_inflight (n : Nat) : (setFcount n s).inflight = s.inflight := rfl
@[simp] theorem setFcount_delay (n : Nat) : (setFcount n s).delay = s.delay := rfl
@[simp] theorem setFcount_draws (n : Nat) : (setFcount n s).draws = s.draws := rfl
@[simp] theorem setFcount_host (n : Nat) : (setFcount n s).host = s.host := rfl
@[simp] theorem setFcount_replies (n : Nat) : (setFcount n s).replies = s.replies := rfl

/-! ### `recordFrame`: the bookkeeping of FPUSH (rule R132) -/

@[simp] theorem recordFrame_params (f : Nat) : (recordFrame f s).params = s.params := rfl
@[simp] theorem recordFrame_done (f : Nat) : (recordFrame f s).done = s.done := rfl
@[simp] theorem recordFrame_err (f : Nat) : (recordFrame f s).err = s.err := rfl
@[simp] theorem recordFrame_errCode (f : Nat) : (recordFrame f s).errCode = s.errCode := rfl
@[simp] theorem recordFrame_errCmd (f : Nat) : (recordFrame f s).errCmd = s.errCmd := rfl
@[simp] theorem recordFrame_doneIE (f : Nat) : (recordFrame f s).doneIE = s.doneIE := rfl
@[simp] theorem recordFrame_errIE (f : Nat) : (recordFrame f s).errIE = s.errIE := rfl
@[simp] theorem recordFrame_src (f : Nat) : (recordFrame f s).src = s.src := rfl
@[simp] theorem recordFrame_dst (f : Nat) : (recordFrame f s).dst = s.dst := rfl
@[simp] theorem recordFrame_len (f : Nat) : (recordFrame f s).len = s.len := rfl
@[simp] theorem recordFrame_olen (f : Nat) : (recordFrame f s).olen = s.olen := rfl
@[simp] theorem recordFrame_width (f : Nat) : (recordFrame f s).width = s.width := rfl
@[simp] theorem recordFrame_height (f : Nat) : (recordFrame f s).height = s.height := rfl
@[simp] theorem recordFrame_fill (f : Nat) : (recordFrame f s).fill = s.fill := rfl
@[simp] theorem recordFrame_fidx (f : Nat) : (recordFrame f s).fidx = s.fidx := rfl
@[simp] theorem recordFrame_fcount (f : Nat) : (recordFrame f s).fcount = s.fcount := rfl
@[simp] theorem recordFrame_errInfo (f : Nat) : (recordFrame f s).errInfo = s.errInfo := rfl
@[simp] theorem recordFrame_keylen (f : Nat) : (recordFrame f s).keylen = s.keylen := rfl
@[simp] theorem recordFrame_kphase (f : Nat) : (recordFrame f s).kphase = s.kphase := rfl
@[simp] theorem recordFrame_key (f : Nat) : (recordFrame f s).key = s.key := rfl
@[simp] theorem recordFrame_bitmem (f : Nat) : (recordFrame f s).bitmem = s.bitmem := rfl
@[simp] theorem recordFrame_pixmem (f : Nat) : (recordFrame f s).pixmem = s.pixmem := rfl
@[simp] theorem recordFrame_stage (f : Nat) : (recordFrame f s).stage = s.stage := rfl
@[simp] theorem recordFrame_present (f : Nat) : (recordFrame f s).present = insertFrame f s.present := rfl
@[simp] theorem recordFrame_pcap (f : Nat) : (recordFrame f s).pcap = if s.pcap = 0#32 then BitVec.ofNat 32 s.capacity else s.pcap := rfl
@[simp] theorem recordFrame_inflight (f : Nat) : (recordFrame f s).inflight = s.inflight := rfl
@[simp] theorem recordFrame_delay (f : Nat) : (recordFrame f s).delay = s.delay := rfl
@[simp] theorem recordFrame_draws (f : Nat) : (recordFrame f s).draws = s.draws := rfl
@[simp] theorem recordFrame_host (f : Nat) : (recordFrame f s).host = s.host := rfl
@[simp] theorem recordFrame_replies (f : Nat) : (recordFrame f s).replies = s.replies := rfl

/-! ### `clearFrames`: the bookkeeping of FCLR (rule R134) -/

@[simp] theorem clearFrames_params : (clearFrames s).params = s.params := rfl
@[simp] theorem clearFrames_done : (clearFrames s).done = s.done := rfl
@[simp] theorem clearFrames_err : (clearFrames s).err = s.err := rfl
@[simp] theorem clearFrames_errCode : (clearFrames s).errCode = s.errCode := rfl
@[simp] theorem clearFrames_errCmd : (clearFrames s).errCmd = s.errCmd := rfl
@[simp] theorem clearFrames_doneIE : (clearFrames s).doneIE = s.doneIE := rfl
@[simp] theorem clearFrames_errIE : (clearFrames s).errIE = s.errIE := rfl
@[simp] theorem clearFrames_src : (clearFrames s).src = s.src := rfl
@[simp] theorem clearFrames_dst : (clearFrames s).dst = s.dst := rfl
@[simp] theorem clearFrames_len : (clearFrames s).len = s.len := rfl
@[simp] theorem clearFrames_olen : (clearFrames s).olen = s.olen := rfl
@[simp] theorem clearFrames_width : (clearFrames s).width = s.width := rfl
@[simp] theorem clearFrames_height : (clearFrames s).height = s.height := rfl
@[simp] theorem clearFrames_fill : (clearFrames s).fill = s.fill := rfl
@[simp] theorem clearFrames_fidx : (clearFrames s).fidx = s.fidx := rfl
@[simp] theorem clearFrames_fcount : (clearFrames s).fcount = s.fcount := rfl
@[simp] theorem clearFrames_errInfo : (clearFrames s).errInfo = s.errInfo := rfl
@[simp] theorem clearFrames_keylen : (clearFrames s).keylen = s.keylen := rfl
@[simp] theorem clearFrames_kphase : (clearFrames s).kphase = s.kphase := rfl
@[simp] theorem clearFrames_key : (clearFrames s).key = s.key := rfl
@[simp] theorem clearFrames_bitmem : (clearFrames s).bitmem = s.bitmem := rfl
@[simp] theorem clearFrames_pixmem : (clearFrames s).pixmem = s.pixmem := rfl
@[simp] theorem clearFrames_stage : (clearFrames s).stage = s.stage := rfl
@[simp] theorem clearFrames_present : (clearFrames s).present = [] := rfl
@[simp] theorem clearFrames_pcap : (clearFrames s).pcap = 0#32 := rfl
@[simp] theorem clearFrames_inflight : (clearFrames s).inflight = s.inflight := rfl
@[simp] theorem clearFrames_delay : (clearFrames s).delay = s.delay := rfl
@[simp] theorem clearFrames_draws : (clearFrames s).draws = s.draws := rfl
@[simp] theorem clearFrames_host : (clearFrames s).host = s.host := rfl
@[simp] theorem clearFrames_replies : (clearFrames s).replies = s.replies := rfl

/-! ### `reply`: a bus answer -/

@[simp] theorem reply_params (r : Reply) : (reply r s).params = s.params := rfl
@[simp] theorem reply_done (r : Reply) : (reply r s).done = s.done := rfl
@[simp] theorem reply_err (r : Reply) : (reply r s).err = s.err := rfl
@[simp] theorem reply_errCode (r : Reply) : (reply r s).errCode = s.errCode := rfl
@[simp] theorem reply_errCmd (r : Reply) : (reply r s).errCmd = s.errCmd := rfl
@[simp] theorem reply_doneIE (r : Reply) : (reply r s).doneIE = s.doneIE := rfl
@[simp] theorem reply_errIE (r : Reply) : (reply r s).errIE = s.errIE := rfl
@[simp] theorem reply_src (r : Reply) : (reply r s).src = s.src := rfl
@[simp] theorem reply_dst (r : Reply) : (reply r s).dst = s.dst := rfl
@[simp] theorem reply_len (r : Reply) : (reply r s).len = s.len := rfl
@[simp] theorem reply_olen (r : Reply) : (reply r s).olen = s.olen := rfl
@[simp] theorem reply_width (r : Reply) : (reply r s).width = s.width := rfl
@[simp] theorem reply_height (r : Reply) : (reply r s).height = s.height := rfl
@[simp] theorem reply_fill (r : Reply) : (reply r s).fill = s.fill := rfl
@[simp] theorem reply_fidx (r : Reply) : (reply r s).fidx = s.fidx := rfl
@[simp] theorem reply_fcount (r : Reply) : (reply r s).fcount = s.fcount := rfl
@[simp] theorem reply_errInfo (r : Reply) : (reply r s).errInfo = s.errInfo := rfl
@[simp] theorem reply_keylen (r : Reply) : (reply r s).keylen = s.keylen := rfl
@[simp] theorem reply_kphase (r : Reply) : (reply r s).kphase = s.kphase := rfl
@[simp] theorem reply_key (r : Reply) : (reply r s).key = s.key := rfl
@[simp] theorem reply_bitmem (r : Reply) : (reply r s).bitmem = s.bitmem := rfl
@[simp] theorem reply_pixmem (r : Reply) : (reply r s).pixmem = s.pixmem := rfl
@[simp] theorem reply_stage (r : Reply) : (reply r s).stage = s.stage := rfl
@[simp] theorem reply_present (r : Reply) : (reply r s).present = s.present := rfl
@[simp] theorem reply_pcap (r : Reply) : (reply r s).pcap = s.pcap := rfl
@[simp] theorem reply_inflight (r : Reply) : (reply r s).inflight = s.inflight := rfl
@[simp] theorem reply_delay (r : Reply) : (reply r s).delay = s.delay := rfl
@[simp] theorem reply_draws (r : Reply) : (reply r s).draws = s.draws := rfl
@[simp] theorem reply_host (r : Reply) : (reply r s).host = s.host := rfl
@[simp] theorem reply_replies (r : Reply) : (reply r s).replies = r :: s.replies := rfl

/-! ### `repeatInput`, `waitRound`: the host's `WAIT` (rule R86) -/

@[simp] theorem repeatInput_params (a : HostInput) : (repeatInput a s).params = s.params := rfl
@[simp] theorem repeatInput_done (a : HostInput) : (repeatInput a s).done = s.done := rfl
@[simp] theorem repeatInput_err (a : HostInput) : (repeatInput a s).err = s.err := rfl
@[simp] theorem repeatInput_errCode (a : HostInput) : (repeatInput a s).errCode = s.errCode := rfl
@[simp] theorem repeatInput_errCmd (a : HostInput) : (repeatInput a s).errCmd = s.errCmd := rfl
@[simp] theorem repeatInput_doneIE (a : HostInput) : (repeatInput a s).doneIE = s.doneIE := rfl
@[simp] theorem repeatInput_errIE (a : HostInput) : (repeatInput a s).errIE = s.errIE := rfl
@[simp] theorem repeatInput_src (a : HostInput) : (repeatInput a s).src = s.src := rfl
@[simp] theorem repeatInput_dst (a : HostInput) : (repeatInput a s).dst = s.dst := rfl
@[simp] theorem repeatInput_len (a : HostInput) : (repeatInput a s).len = s.len := rfl
@[simp] theorem repeatInput_olen (a : HostInput) : (repeatInput a s).olen = s.olen := rfl
@[simp] theorem repeatInput_width (a : HostInput) : (repeatInput a s).width = s.width := rfl
@[simp] theorem repeatInput_height (a : HostInput) : (repeatInput a s).height = s.height := rfl
@[simp] theorem repeatInput_fill (a : HostInput) : (repeatInput a s).fill = s.fill := rfl
@[simp] theorem repeatInput_fidx (a : HostInput) : (repeatInput a s).fidx = s.fidx := rfl
@[simp] theorem repeatInput_fcount (a : HostInput) : (repeatInput a s).fcount = s.fcount := rfl
@[simp] theorem repeatInput_errInfo (a : HostInput) : (repeatInput a s).errInfo = s.errInfo := rfl
@[simp] theorem repeatInput_keylen (a : HostInput) : (repeatInput a s).keylen = s.keylen := rfl
@[simp] theorem repeatInput_kphase (a : HostInput) : (repeatInput a s).kphase = s.kphase := rfl
@[simp] theorem repeatInput_key (a : HostInput) : (repeatInput a s).key = s.key := rfl
@[simp] theorem repeatInput_bitmem (a : HostInput) : (repeatInput a s).bitmem = s.bitmem := rfl
@[simp] theorem repeatInput_pixmem (a : HostInput) : (repeatInput a s).pixmem = s.pixmem := rfl
@[simp] theorem repeatInput_stage (a : HostInput) : (repeatInput a s).stage = s.stage := rfl
@[simp] theorem repeatInput_present (a : HostInput) : (repeatInput a s).present = s.present := rfl
@[simp] theorem repeatInput_pcap (a : HostInput) : (repeatInput a s).pcap = s.pcap := rfl
@[simp] theorem repeatInput_inflight (a : HostInput) : (repeatInput a s).inflight = s.inflight := rfl
@[simp] theorem repeatInput_delay (a : HostInput) : (repeatInput a s).delay = s.delay := rfl
@[simp] theorem repeatInput_draws (a : HostInput) : (repeatInput a s).draws = s.draws := rfl
@[simp] theorem repeatInput_host (a : HostInput) : (repeatInput a s).host = a :: s.host := rfl
@[simp] theorem repeatInput_replies (a : HostInput) : (repeatInput a s).replies = s.replies := rfl

/-- Bit 0 of a read of `STATUS` is BUSY (rule R24). -/
theorem readReg_status_getLsbD_zero : (readReg s .status).getLsbD 0 = s.busy := by
  simp only [readReg, State.statusWord, BitVec.getLsbD_append]
  simp

/-- While BUSY = 1 a round of `WAIT` answers STATUS and leaves the `WAIT` at the head. -/
theorem waitRound_of_busy (h : s.busy = true) :
    waitRound s = reply (.data (readReg s .status)) (repeatInput .wait s) := by
  rw [waitRound, readReg_status_getLsbD_zero, h]; rfl

/-- With BUSY = 0 a round of `WAIT` answers STATUS and the `WAIT` is over. -/
theorem waitRound_of_idle (h : s.busy = false) : waitRound s = reply (.data (readReg s .status)) s := by
  rw [waitRound, readReg_status_getLsbD_zero, h]; rfl

/-- A round of `WAIT` changes nothing but the host's own lists. -/
theorem waitRound_eq : waitRound s =
    { s with host := (if s.busy = true then [HostInput.wait] else []) ++ s.host
             replies := .data (readReg s .status) :: s.replies } := by
  cases h : s.busy
  · rw [waitRound_of_idle s h]; rfl
  · rw [waitRound_of_busy s h]; rfl

end Sys2Proof.Machine
end

