-- ==== Sys2Proof/Laws/Ops.lean ====
section
/-! SUPPORT. What the shared operations of the commands do: one lemma for each, which a proof cites instead of
unfolding the operation. -/

namespace Sys2Proof.Machine

/-! ### Packing of words -/

theorem lanebit_lt {k : Nat} (h : k < 32) : lanebit k < 32 := by unfold lanebit; omega

/-- `lanebit` is its own inverse on 0..31. -/
theorem lanebit_lanebit {k : Nat} (h : k < 32) : lanebit (lanebit k) = k := by unfold lanebit; omega

theorem getLsbD_bitsToWord (f : Nat → Bool) (n j : Nat) : (bitsToWord f n).getLsbD j = (decide (j < n) && f j) := by
  induction n with
  | zero => simp [bitsToWord]
  | succ n ih =>
    rw [bitsToWord, BitVec.getLsbD_cons, ih]
    by_cases h : j = n
    · simp [h]
    · by_cases h' : j < n
      · simp [h, h', show j < n + 1 by omega]
      · simp [h, h', show ¬ j < n + 1 by omega]

/-- A packed word holds bit `k` of the sequence in word bit `lanebit k`. -/
theorem getLsbD_packWord (f : Nat → Bool) {k : Nat} (h : k < 32) : (packWord f).getLsbD (lanebit k) = f k := by
  rw [packWord, getLsbD_bitsToWord, lanebit_lanebit h]
  simp [lanebit_lt h]

@[simp] theorem unpackWord_length (v : Word) : (unpackWord v).length = 32 := readRange_length ..

theorem unpackWord_getElem? (v : Word) {k : Nat} (h : k < 32) : (unpackWord v)[k]? = some (v.getLsbD (lanebit k)) := by
  simp [unpackWord, h]

/-! ### The cipher sequences -/

/-- The four rows of rule R100. -/
theorem lut_table : lut false false = (true, true) ∧ lut false true = (true, false) ∧ lut true false = (false, true) ∧
    lut true true = (false, false) := ⟨rfl, rfl, rfl, rfl⟩

@[simp] theorem lut_eq (a b : Bool) : lut a b = (!a, !b) := rfl

theorem subst_length (l : List Bool) : (subst l).length = 2 * (l.length / 2) := by
  fun_induction subst l with
  | case1 a b rest ih => simp only [List.length_cons, ih]; omega
  | case2 => simp
  | case3 => simp

@[simp] theorem xorStream_length (s : State) (l : List Bool) : (xorStream s l).length = l.length := by
  simp [xorStream]

theorem xorStream_get (s : State) (l : List Bool) (i : Nat) :
    (xorStream s l)[i]? = l[i]?.map (fun b => b ^^ keystream s i) := by
  simp only [xorStream, List.getElem?_zipWith, readRange_getElem?]
  by_cases h : i < l.length
  · simp [h]
  · simp [h]

@[simp] theorem sourceBits_length (s : State) : (sourceBits s).length = s.len.toNat := readRange_length ..

theorem sourceBits_get (s : State) {i : Nat} (h : i < s.len.toNat) :
    (sourceBits s)[i]? = some (s.bit (s.src.toNat + i)) := by
  simp [sourceBits, h]

@[simp] theorem sourceElements_length (s : State) : (sourceElements s).length = s.len.toNat := readRange_length ..

theorem sourceElements_get (s : State) {i : Nat} (h : i < s.len.toNat) :
    (sourceElements s)[i]? = some (s.bitmem.get (s.src.toNat + i)) := by
  simp [sourceElements, h]

/-- A result of at most `LEN` elements keeps its length. -/
theorem resultElements_length {s : State} {t : List Bool} (h : t.length ≤ s.len.toNat) :
    (resultElements (sourceElements s) t).length = t.length := by
  simp [resultElements, h]

/-- Where the source bit is specified a command reads it (rule R41). -/
theorem bit_of_get {s : State} {a : Nat} {b : Bool} (h : s.bitmem.get a = some b) : s.bit a = b := by
  simp [State.bit, h]

/-! ### The frame bookkeeping -/

theorem mem_insertFrame {f g : Nat} (l : List Nat) : g ∈ insertFrame f l ↔ g = f ∨ g ∈ l := by
  induction l with
  | nil => simp [insertFrame]
  | cons h rest ih =>
    simp only [insertFrame]
    split
    · simp
    · split
      · subst_vars; simp
      · simp only [List.mem_cons, ih]; tauto

/-- Recording a frame keeps the presence map in rising order. -/
theorem rising_insertFrame {f : Nat} {l : List Nat} (h : l.Pairwise (· < ·)) : (insertFrame f l).Pairwise (· < ·) := by
  induction l with
  | nil => simp [insertFrame]
  | cons g rest ih =>
    obtain ⟨hg, hr⟩ := List.pairwise_cons.mp h
    simp only [insertFrame]
    split
    · rename_i hfg
      refine List.pairwise_cons.mpr ⟨?_, h⟩
      intro x hx
      rcases List.mem_cons.mp hx with rfl | hx
      · exact hfg
      · exact Nat.lt_trans hfg (hg x hx)
    · split
      · exact h
      · refine List.pairwise_cons.mpr ⟨?_, ih hr⟩
        intro x hx
        rcases (mem_insertFrame rest).mp hx with rfl | hx
        · omega
        · exact hg x hx

theorem insertFrame_ne_nil (f : Nat) (l : List Nat) : insertFrame f l ≠ [] := by
  intro h
  have := (mem_insertFrame (f := f) (g := f) l).mpr (.inl rfl)
  rw [h] at this
  cases this

/-- Every present index is below MERGE's `N`. -/
theorem lt_mergeCount {s : State} {f : Nat} (h : f ∈ s.present) : f < s.mergeCount := by
  unfold State.mergeCount
  generalize s.present = l at h
  induction l with
  | nil => cases h
  | cons g rest ih =>
    simp only [List.foldr_cons]
    rcases List.mem_cons.mp h with rfl | h
    · omega
    · have := ih h; omega

/-- MERGE's `N` is 0 or 1 + a present index. -/
theorem mergeCount_attained (s : State) : s.mergeCount = 0 ∨ ∃ f ∈ s.present, s.mergeCount = f + 1 := by
  unfold State.mergeCount
  generalize s.present = l
  induction l with
  | nil => simp
  | cons g rest ih =>
    right
    simp only [List.foldr_cons, List.mem_cons, exists_eq_or_imp]
    rcases ih with h | ⟨f, hf, h⟩
    · left; omega
    · rcases Nat.le_total (g + 1) (f + 1) with hgf | hgf
      · right; exact ⟨f, hf, by omega⟩
      · left; omega

/-- The least absent index: the answer is absent, every index before it from the start on is present. -/
theorem leastAbsent_some {l : List Nat} {n f g : Nat} (h : leastAbsent l n f = some g) :
    f ≤ g ∧ g < f + n ∧ g ∉ l ∧ ∀ k, f ≤ k → k < g → k ∈ l := by
  induction n generalizing f with
  | zero => simp [leastAbsent] at h
  | succ n ih =>
    simp only [leastAbsent] at h
    split at h
    · rename_i hf
      obtain ⟨h1, h2, h3, h4⟩ := ih h
      refine ⟨by omega, by omega, h3, fun k hk hkg => ?_⟩
      rcases Nat.eq_or_lt_of_le hk with rfl | hk
      · simpa using hf
      · exact h4 k hk hkg
    · rename_i hf
      obtain rfl := Option.some.inj h
      exact ⟨Nat.le_refl _, by omega, by simpa using hf, fun k h1 h2 => absurd h2 (by omega)⟩

theorem leastAbsent_none {l : List Nat} {n f : Nat} : leastAbsent l n f = none ↔ ∀ k, f ≤ k → k < f + n → k ∈ l := by
  induction n generalizing f with
  | zero => simp [leastAbsent]; omega
  | succ n ih =>
    simp only [leastAbsent]
    split
    · rename_i hf
      rw [ih]
      constructor
      · intro h k h1 h2
        rcases Nat.eq_or_lt_of_le h1 with rfl | h1
        · simpa using hf
        · exact h k h1 (by omega)
      · intro h k h1 h2
        exact h k (by omega) (by omega)
    · rename_i hf
      simp only [reduceCtorEq, false_iff]
      intro h
      exact hf (by simpa using h f (Nat.le_refl _) (by omega))

/-! ### The checks: what holds when none fails -/

/-- No check of rule R104 fails. -/
theorem cipherCheck_none {needKey : Bool} {olen : Nat} {s : State} (h : cipherCheck needKey olen s = none) :
    (needKey = true → 1 ≤ s.keylen.toNat ∧ s.keylen.toNat ≤ s.params.kmax ∧ s.kphase.toNat < s.keylen.toNat) ∧
    s.src.toNat + s.len.toNat ≤ s.params.nb ∧ s.dst.toNat + olen ≤ s.params.nb ∧
    ¬ (0 < olen ∧ s.src.toNat < s.dst.toNat ∧ s.dst.toNat < s.src.toNat + s.len.toNat) := by
  unfold cipherCheck at h
  repeat' split at h
  all_goals try contradiction
  rename_i h1 h2 h3 h4 h5
  refine ⟨fun hk => ?_, by omega, by omega, h5⟩
  simp only [hk, true_and, not_or] at h1 h2
  omega

theorem rasterCheck_none {a b : Nat} {s : State} (h : rasterCheck a b s = none) :
    s.src.toNat + s.len.toNat ≤ a ∧ s.dst.toNat + s.len.toNat ≤ b := by
  unfold rasterCheck at h
  repeat' split at h
  all_goals try contradiction
  omega

theorem splitCheck_none {s : State} (h : splitCheck s = none) :
    0 < s.capacity ∧ s.len.toNat ≤ s.params.np ∧ s.splitCount * s.capacity ≤ s.params.np := by
  unfold splitCheck at h
  repeat' split at h
  all_goals try contradiction
  omega

theorem fpushCheck_none {s : State} (h : fpushCheck s = none) :
    0 < s.capacity ∧ s.capacity ≤ s.params.cmax ∧ (s.pcap = 0#32 ∨ s.capacity = s.pcap.toNat) ∧
    (s.fidx.toNat + 1) * s.capacity ≤ s.params.np ∧ s.fidx.toNat ∉ s.present := by
  unfold fpushCheck State.isPresent at h
  repeat' split at h
  all_goals try contradiction
  rename_i h1 h2 h3 h4
  refine ⟨by omega, by omega, ?_, by omega, by simpa using h4⟩
  by_cases hp : s.pcap = 0#32
  · exact .inl hp
  · right; by_contra hc; exact h2 ⟨hp, hc⟩

theorem mergeCheck_none {s : State} (h : mergeCheck s = none) :
    0 < s.capacity ∧ (s.pcap = 0#32 ∨ s.capacity = s.pcap.toNat) ∧ ∀ f, f < s.mergeCount → f ∈ s.present := by
  unfold mergeCheck at h
  repeat' split at h
  all_goals try contradiction
  rename_i h1 h2 _ hl
  refine ⟨by omega, ?_, fun f hf => leastAbsent_none.mp hl f (Nat.zero_le _) (by omega)⟩
  by_cases hp : s.pcap = 0#32
  · exact .inl hp
  · right; by_contra hc; exact h2 ⟨hp, hc⟩

/-- `ceil(LEN / C)` is the least count of frames that holds `LEN` pixels (rule R11). -/
theorem splitCount_le_iff {s : State} (hc : 0 < s.capacity) (k : Nat) :
    s.splitCount ≤ k ↔ s.len.toNat ≤ k * s.capacity := by
  unfold State.splitCount
  rw [Nat.div_le_iff_le_mul_add_pred hc, Nat.mul_comm]
  omega

/-- The frames of SPLIT hold the whole sequence. -/
theorem len_le_splitCount {s : State} (hc : 0 < s.capacity) : s.len.toNat ≤ s.splitCount * s.capacity :=
  (splitCount_le_iff hc _).mp (Nat.le_refl _)

end Sys2Proof.Machine
end

