-- ==== Sys2Proof/Laws/Exec.lean ====
section
/-! SUPPORT. What a command and a step can do, said once: every proof about all commands or all steps starts from
`exec_eq` or `step_cases`. -/

namespace Sys2Proof.Machine

/-- The first failing check of a command, if any (rule R162). -/
def commandCheck : Instr → State → Option CmdError
  | .nop, _ => none
  | .sub, s => cipherCheck false s.evenLen s
  | .xor, s => cipherCheck true s.len.toNat s
  | .enc, s => cipherCheck true s.evenLen s
  | .dec, s => cipherCheck true s.evenLen s
  | .b2p, s => rasterCheck s.params.nb s.params.np s
  | .p2b, s => rasterCheck s.params.np s.params.nb s
  | .split, s => splitCheck s
  | .fpush, s => fpushCheck s
  | .merge, s => mergeCheck s
  | .fclr, _ => none

/-- What a cipher command with the output sequence `t` writes, before `complete()`. -/
abbrev cipherEffect (olen : Nat) (t : List Bool) (s : State) : State :=
  setOlen olen (writeBits s.dst.toNat (resultElements (sourceElements s) t) s)

/-- What a command that passes its checks writes, before `complete()`. -/
def commandEffect : Instr → State → State
  | .nop, s => s
  | .sub, s => cipherEffect s.evenLen (subst (sourceBits s)) s
  | .xor, s => cipherEffect s.len.toNat (xorStream s (sourceBits s)) s
  | .enc, s => cipherEffect s.evenLen (xorStream s (subst (sourceBits s))) s
  | .dec, s => cipherEffect s.evenLen (subst (xorStream s (sourceBits s))) s
  | .b2p, s => setOlen s.len.toNat (writePixels s.dst.toNat
      ((readRange (fun k => s.bitmem.get k) s.src.toNat s.len.toNat).map (Option.map bitToPixel)) s)
  | .p2b, s => setOlen s.len.toNat (writeBits s.dst.toNat
      ((readRange (fun k => s.pixmem.get k) s.src.toNat s.len.toNat).map (Option.map pixelToBit)) s)
  | .split, s => setFcount s.splitCount (setOlen (s.splitCount * s.capacity)
      (writePixels s.len.toNat (List.replicate (s.splitCount * s.capacity - s.len.toNat) (some s.fill)) s))
  | .fpush, s => setOlen s.capacity (recordFrame s.fidx.toNat
      (writePixels (s.frameSlot s.fidx.toNat) (readRange (fun k => s.stage.get k) 0 s.capacity) s))
  | .merge, s => setFcount s.mergeCount (setOlen (s.mergeCount * s.capacity) s)
  | .fclr, s => clearFrames s

/-- Every command is its checks, then its effect and `complete()`, in one transition (rule R186). -/
theorem exec_eq (i : Instr) (s : State) :
    exec i s = .next (match commandCheck i s with
      | some e => raiseError (encode i) e s
      | none => complete (commandEffect i s)) := by
  cases i <;>
    simp only [exec, execNop, execSub, execXor, execEnc, execDec, execB2p, execP2b, execSplit, execFpush, execMerge,
      execFclr, cipherCommand, finish, commandCheck, commandEffect] <;>
    split <;> simp_all

/-- A command whose check fails enters the error. -/
theorem exec_of_some {i : Instr} {s : State} {e : CmdError} (h : commandCheck i s = some e) :
    exec i s = .next (raiseError (encode i) e s) := by rw [exec_eq, h]

/-- A command whose checks pass has its effect and completes. -/
theorem exec_of_none {i : Instr} {s : State} (h : commandCheck i s = none) :
    exec i s = .next (complete (commandEffect i s)) := by rw [exec_eq, h]

/-- What a command that answers a next state has done. -/
theorem exec_cases {i : Instr} {s t : State} (h : exec i s = .next t) :
    (∃ e, commandCheck i s = some e ∧ t = raiseError (encode i) e s) ∨
    (commandCheck i s = none ∧ t = complete (commandEffect i s)) := by
  rw [exec_eq] at h
  cases hc : commandCheck i s with
  | some e => rw [hc] at h; exact .inl ⟨e, rfl, (Host.Outcome.next.inj h).symm⟩
  | none => rw [hc] at h; exact .inr ⟨rfl, (Host.Outcome.next.inj h).symm⟩

/-- What an engine step has done: a command, or the error entry of an illegal word (rule R151). -/
theorem engineStep_cases {w : Word} {s t : State} (h : engineStep w s = .next t) :
    (∃ i, decode w = .ok i ∧ exec i s = .next t) ∨
    ((∃ e, decode w = .error e) ∧ t = raiseError w { code := .illegalCmd, info := w } s) := by
  unfold engineStep at h
  split at h
  · rename_i i hi; exact .inl ⟨i, hi, h⟩
  · rename_i e he; exact .inr ⟨⟨e, he⟩, (Host.Outcome.next.inj h).symm⟩

/-- What a performed input has done. -/
theorem hostInput_cases {a : HostInput} {s t : State} (h : hostInput a s = .next t) :
    (∃ width off place, a = .read width off ∧ resolve s.params width off = .ok place ∧
      t = reply (.data (readPlace s place)) (afterRead s place)) ∨
    (∃ width off v place, a = .write width off v ∧ resolve s.params width off = .ok place ∧
      t = reply .written (writePlace v s place)) ∨
    (a = .powerOn ∧ t = powerOnReset s) ∨ (a = .wait ∧ t = waitRound s) := by
  cases a with
  | read width off =>
    simp only [hostInput] at h
    split at h
    · rename_i place hp; exact .inl ⟨width, off, place, rfl, hp, (Host.Outcome.next.inj h).symm⟩
    · cases h
  | write width off v =>
    simp only [hostInput] at h
    split at h
    · rename_i place hp; exact .inr (.inl ⟨width, off, v, place, rfl, hp, (Host.Outcome.next.inj h).symm⟩)
    · cases h
  | powerOn => exact .inr (.inr (.inl ⟨rfl, (Host.Outcome.next.inj h).symm⟩))
  | wait => exact .inr (.inr (.inr ⟨rfl, (Host.Outcome.next.inj h).symm⟩))

/-- With no command in flight the oldest input is performed. -/
theorem step_idle {s : State} {a : HostInput} {rest : List HostInput} (hi : s.inflight = none)
    (hh : s.host = a :: rest) : step s = hostInput a { s with host := rest } := by
  have h1 : step s = idleStep s := by unfold step; rw [hi]
  rw [h1, idleStep]
  split
  · rename_i h; rw [hh] at h; cases h
  · rename_i b r h; rw [hh] at h; cases h; rfl

/-- An exempt input that is due is performed while a command is in flight. -/
theorem step_exempt {s : State} {w : Word} {a : HostInput} {rest : List HostInput} (hw : s.inflight = some w)
    (hh : s.host = a :: rest) (he : exempt s.params a = true) (hd : 0 < s.delay) :
    step s = hostInput a { s with host := rest, delay := s.delay - 1 } := by
  have h1 : step s = busyStep w s := by unfold step; rw [hw]
  rw [h1, busyStep]
  split
  · rename_i h; rw [hh] at h; cases h
  · rename_i b r h; rw [hh] at h; cases h; rw [if_pos ⟨he, hd⟩]

/-- An input is performed when no command is in flight, or when it is exempt and due; it takes one from `delay` in the
second case. -/
theorem step_performs {s : State} {a : HostInput} {rest : List HostInput} (hh : s.host = a :: rest)
    (ht : s.inflight = none ∨ (exempt s.params a = true ∧ 0 < s.delay)) :
    step s = hostInput a { s with
      host := rest, delay := match s.inflight with | none => s.delay | some _ => s.delay - 1 } := by
  rcases Option.eq_none_or_eq_some s.inflight with hw | ⟨w, hw⟩
  · have hd : (match s.inflight with | none => s.delay | some _ => s.delay - 1) = s.delay := by rw [hw]
    rw [hd, step_idle hw hh]
  · have hd : (match s.inflight with | none => s.delay | some _ => s.delay - 1) = s.delay - 1 := by rw [hw]
    rcases ht with hi | ⟨he, hp⟩
    · rw [hw] at hi; cases hi
    · rw [hd, step_exempt hw hh he hp]

/-- Where no exempt input is due the engine moves. -/
theorem step_engine {s : State} {w : Word} (hw : s.inflight = some w)
    (ht : ∀ a rest, s.host = a :: rest → exempt s.params a = false ∨ s.delay = 0) : step s = engineStep w s := by
  rw [step, hw]
  simp only [busyStep]
  split
  · rfl
  · rename_i a rest hh
    rw [if_neg]
    rcases ht a rest hh with h | h <;> simp [h]

/-- What a step that answers a next state has done (rules R70, R71). -/
theorem step_cases {s t : State} (h : step s = .next t) :
    (s.inflight = none ∧ s.host = [] ∧ t = s) ∨
    (∃ a rest, s.inflight = none ∧ s.host = a :: rest ∧ hostInput a { s with host := rest } = .next t) ∨
    (∃ w a rest, s.inflight = some w ∧ s.host = a :: rest ∧ exempt s.params a = true ∧ 0 < s.delay ∧
      hostInput a { s with host := rest, delay := s.delay - 1 } = .next t) ∨
    (∃ w, s.inflight = some w ∧ engineStep w s = .next t) := by
  unfold step at h
  rcases Option.eq_none_or_eq_some s.inflight with hw | ⟨w, hw⟩
  · rw [hw] at h
    simp only [idleStep] at h
    split at h
    · rename_i hh; exact .inl ⟨hw, hh, (Host.Outcome.next.inj h).symm⟩
    · rename_i a rest hh; exact .inr (.inl ⟨a, rest, hw, hh, h⟩)
  · rw [hw] at h
    simp only [busyStep] at h
    split at h
    · exact .inr (.inr (.inr ⟨w, hw, h⟩))
    · rename_i a rest hh
      split at h
      · rename_i hc; exact .inr (.inr (.inl ⟨w, a, rest, hw, hh, hc.1, hc.2, h⟩))
      · exact .inr (.inr (.inr ⟨w, hw, h⟩))

/-- What an accepted access reaches is inside its memory, or a key register that exists. -/
theorem resolve_bounds {p : Params} {width : Nat} {off : Offset} {place : Place} (hp : p.wf)
    (h : resolve p width off = .ok place) :
    width = 4 ∧ off.toNat % 4 = 0 ∧ match place with
      | .reg (.key n) => n < p.kmax / 32
      | .reg _ => True
      | .bitWord w => 32 * w + 32 ≤ p.nb
      | .pixel q => q < p.np
      | .staged k => k < p.cmax := by
  obtain ⟨⟨hn1, hn2, hn3⟩, ⟨hq1, hq2⟩, ⟨hc1, hc2, hc3⟩, ⟨hk1, hk2, hk3⟩⟩ := hp
  unfold resolve at h
  split at h
  · cases h
  split at h
  · cases h
  rename_i hw ha
  refine ⟨by omega, by omega, ?_⟩
  split at h
  · rename_i pl hl
    obtain rfl := Except.ok.inj h
    unfold locate at hl
    split at hl
    · obtain ⟨r, hr, rfl⟩ := Option.map_eq_some_iff.mp hl
      unfold registerAt at hr
      split at hr
      · obtain rfl := Option.some.inj hr
        simp only
        omega
      · cases r with
        | key n =>
          have hm := List.lookup_eq_some_iff.mp hr
          obtain ⟨l1, l2, hm, -⟩ := hm
          have : (off.toNat, Reg.key n) ∈ registerMap := by rw [hm]; simp
          simp [registerMap] at this
        | _ => trivial
    split at hl
    · obtain rfl := Option.some.inj hl; simp only; omega
    split at hl
    · obtain rfl := Option.some.inj hl; simp only; omega
    split at hl
    · obtain rfl := Option.some.inj hl; simp only; omega
    · cases hl
  · cases h

end Sys2Proof.Machine
end

