-- ==== Sys2Proof/Laws/Bus.lean ====
section
/-! SUPPORT. Which element each access of the host-program notation reaches (30_encoding.md rule R85). -/

namespace Sys2Proof.Machine

/-- The fixed registers stand at their offsets, whatever the parameters (rule R21). -/
theorem resolve_register (p : Params) (r : Reg) (h : ∀ n, r ≠ .key n) :
    resolve p 4 (Program.offsetOf r) = .ok (.reg r) := by
  cases r <;>
    first
    | exact absurd rfl (h _)
    | simp [Program.offsetOf, resolve, locate, registerAt, registerMap, List.lookup]

/-- `KEY<n>` stands at 0x100 + 4n (rule R21). -/
theorem resolve_key {p : Params} (hp : p.wf) {n : Nat} (hn : n < p.kmax / 32) :
    resolve p 4 (Program.offsetOf (.key n)) = .ok (.reg (.key n)) := by
  obtain ⟨-, -, -, -, -, hk⟩ := hp
  have ho : (Program.offsetOf (.key n)).toNat = 0x100 + 4 * n := by
    simp only [Program.offsetOf, BitVec.toNat_ofNat]; omega
  have hl : locate p (0x100 + 4 * n) = some (.reg (.key n)) := by
    unfold locate registerAt
    rw [if_pos (by omega), if_pos (by omega)]
    simp
  unfold resolve
  rw [ho, if_neg (by simp), if_neg (by omega), hl]

/-- BITMEM word `w` stands at 0x1000000 + 4w (rule R60). -/
theorem resolve_bitWord {p : Params} (hp : p.wf) {w : Nat} (hw : w < p.nb / 32) :
    resolve p 4 (BitVec.ofNat 26 (0x1000000 + 4 * w)) = .ok (.bitWord w) := by
  obtain ⟨⟨-, -, hb⟩, -⟩ := hp
  have ho : (BitVec.ofNat 26 (0x1000000 + 4 * w)).toNat = 0x1000000 + 4 * w := by
    simp only [BitVec.toNat_ofNat]; omega
  have hl : locate p (0x1000000 + 4 * w) = some (.bitWord w) := by
    unfold locate
    rw [if_neg (by omega), if_pos (by omega)]
    simp
  unfold resolve
  rw [ho, if_neg (by simp), if_neg (by omega), hl]

/-- PIXMEM pixel `q` stands at 0x2000000 + 4q (rule R60). -/
theorem resolve_pixel {p : Params} (hp : p.wf) {q : Nat} (hq : q < p.np) :
    resolve p 4 (BitVec.ofNat 26 (0x2000000 + 4 * q)) = .ok (.pixel q) := by
  obtain ⟨⟨-, -, hb⟩, ⟨-, hn⟩, -⟩ := hp
  have ho : (BitVec.ofNat 26 (0x2000000 + 4 * q)).toNat = 0x2000000 + 4 * q := by
    simp only [BitVec.toNat_ofNat]; omega
  have hl : locate p (0x2000000 + 4 * q) = some (.pixel q) := by
    unfold locate
    rw [if_neg (by omega), if_neg (by omega), if_pos (by omega)]
    simp
  unfold resolve
  rw [ho, if_neg (by simp), if_neg (by omega), hl]

/-- STAGE pixel `k` stands at 0x3000000 + 4k (rule R60). -/
theorem resolve_staged {p : Params} (hp : p.wf) {k : Nat} (hk : k < p.cmax) :
    resolve p 4 (BitVec.ofNat 26 (0x3000000 + 4 * k)) = .ok (.staged k) := by
  obtain ⟨⟨-, -, hb⟩, ⟨-, hn⟩, ⟨-, -, hc⟩, -⟩ := hp
  have ho : (BitVec.ofNat 26 (0x3000000 + 4 * k)).toNat = 0x3000000 + 4 * k := by
    simp only [BitVec.toNat_ofNat]; omega
  have hl : locate p (0x3000000 + 4 * k) = some (.staged k) := by
    unfold locate
    rw [if_neg (by omega), if_neg (by omega), if_neg (by omega), if_pos (by omega)]
    simp
  unfold resolve
  rw [ho, if_neg (by simp), if_neg (by omega), hl]

end Sys2Proof.Machine
end

