-- ==== Sys2Proof/Laws/PerInstr.lean ====
section
/-! SUPPORT. Facts about every command as syntax, one lemma per constructor. `EncodedWord`: the word of a command is
one of the table's, with `RSV = 0` and a defined OPC (30_encoding.md rules R80, R82). -/

namespace Sys2Proof.Laws.EncodedWord

/-- The command is well formed and its word is a legal one, below 2^8 because `RSV = 0`. -/
def Statement (i : Instr) : Prop := i.wf = true ∧ wordWf (encode i) ∧ (encode i).toNat < 256

theorem nop : Statement .nop := by unfold Statement; decide

theorem sub : Statement .sub := by unfold Statement; decide

theorem xor : Statement .xor := by unfold Statement; decide

theorem enc : Statement .enc := by unfold Statement; decide

theorem dec : Statement .dec := by unfold Statement; decide

theorem b2p : Statement .b2p := by unfold Statement; decide

theorem p2b : Statement .p2b := by unfold Statement; decide

theorem split : Statement .split := by unfold Statement; decide

theorem fpush : Statement .fpush := by unfold Statement; decide

theorem merge : Statement .merge := by unfold Statement; decide

theorem fclr : Statement .fclr := by unfold Statement; decide

end Sys2Proof.Laws.EncodedWord
end

