-- ==== Sys2Proof/Tests/Slice0.lean ====
section
/-! SUPPORT. Tests of the model: ill-formed terms the checks refuse, words written out from the spec's encoding, the
vectors of 95_test_vectors.md (named in each comment), and for every obligation with hypotheses a state that meets
them. Expected results come from the spec, not from the model. -/

namespace Sys2Proof.Machine.Tests

open Sys2Proof.Machine.Spec

/-- Small legal parameters. -/
def small : Params := { nb := 64, np := 16, cmax := 8, kmax := 32 }

/-- The power-on state of a small HCB. -/
def base : State := State.powerOn small

/-- The bits of a list of digits. -/
def digits (l : List Nat) : List Bool := l.map (fun d => d == 1)

/-- BITMEM with the digits from index 0 on. -/
def bitsAt (l : List Nat) : Memory Bool := Memory.write [] 0 (digits l)

/-- What `f` gives in the state an outcome answers. -/
def after {α : Type} (o : Host.Outcome State Fault Refusal) (f : State → α) : Option α :=
  match o with
  | .next t => some (f t)
  | .fault _ => none
  | .refused _ => none

/-- The fault an outcome ends in. -/
def faultOf (o : Host.Outcome State Fault Refusal) : Option Fault :=
  match o with
  | .next _ => none
  | .fault e => some e
  | .refused _ => none

/-- `n` bits of BITMEM from `a` on. -/
def bitsOf (s : State) (a n : Nat) : List (Option Bool) := readRange (fun k => s.bitmem.get k) a n

/-- `n` pixels of PIXMEM from `p` on. -/
def pixelsOf (s : State) (p n : Nat) : List (Option Pixel) := readRange (fun k => s.pixmem.get k) p n

/-- The specified bits of a list of digits. -/
def known (l : List Nat) : List (Option Bool) := (digits l).map some

/-- STATUS and ERRINFO. -/
def statusOf (s : State) : Word × Word := (readReg s .status, readReg s .errInfo)

/-- The operands of a cipher or raster command. -/
def ops (d a n : Word) (s : State) : State := { s with src := a, dst := d, len := n }

/-- A key in KEY0 with its length and phase. -/
def keyed (k : Word) (l p : Half) (s : State) : State := { s with key := [k], keylen := l, kphase := p }

/-- A frame geometry. -/
def shaped (w h : Half) (s : State) : State := { s with width := w, height := h }

/-- A command in flight. -/
def flying (i : Instr) (s : State) : State := { s with inflight := some (encode i) }

/-! ### Well-formedness: one ill-formed term per check (rules R7, R84) -/

theorem test_params_default_wf : Params.default.wf := by decide
theorem test_params_small_wf : small.wf := by decide
theorem test_params_nb_not_words : ¬ Params.wf { small with nb := 65 } := by decide
theorem test_params_nb_too_small : ¬ Params.wf { small with nb := 0 } := by decide
theorem test_params_nb_too_large : ¬ Params.wf { small with nb := 134217760 } := by decide
theorem test_params_np_too_small : ¬ Params.wf { small with np := 0, cmax := 0 } := by decide
theorem test_params_np_too_large : ¬ Params.wf { small with np := 4194305 } := by decide
theorem test_params_cmax_too_small : ¬ Params.wf { small with cmax := 0 } := by decide
theorem test_params_cmax_above_np : ¬ Params.wf { small with cmax := 17 } := by decide
theorem test_params_cmax_too_large : ¬ Params.wf { small with np := 4194304, cmax := 4194305 } := by decide
theorem test_params_kmax_not_words : ¬ Params.wf { small with kmax := 33 } := by decide
theorem test_params_kmax_too_small : ¬ Params.wf { small with kmax := 0 } := by decide
theorem test_params_kmax_too_large : ¬ Params.wf { small with kmax := 2080 } := by decide
theorem test_word_reserved_bits : ¬ wordWf 0x00000101#32 := by decide
theorem test_word_undefined_opcode : ¬ wordWf 0x00000005#32 := by decide
theorem test_word_legal : wordWf 0x00000023#32 := by decide

/-! ### Decoding: words written out bit by bit, RSV [31:8] = 0, OPC [7:0] of rule R82 -/

theorem test_decode_nop : decode 0b00000000000000000000000000000000#32 = .ok .nop := by rfl
theorem test_decode_sub : decode 0b00000000000000000000000000000001#32 = .ok .sub := by rfl
theorem test_decode_xor : decode 0b00000000000000000000000000000010#32 = .ok .xor := by rfl
theorem test_decode_enc : decode 0b00000000000000000000000000000011#32 = .ok .enc := by rfl
theorem test_decode_dec : decode 0b00000000000000000000000000000100#32 = .ok .dec := by rfl
theorem test_decode_b2p : decode 0b00000000000000000000000000010000#32 = .ok .b2p := by rfl
theorem test_decode_p2b : decode 0b00000000000000000000000000010001#32 = .ok .p2b := by rfl
theorem test_decode_split : decode 0b00000000000000000000000000100000#32 = .ok .split := by rfl
theorem test_decode_fpush : decode 0b00000000000000000000000000100001#32 = .ok .fpush := by rfl
theorem test_decode_merge : decode 0b00000000000000000000000000100010#32 = .ok .merge := by rfl
theorem test_decode_fclr : decode 0b00000000000000000000000000100011#32 = .ok .fclr := by rfl
theorem test_decode_rejects_rsv : decode 0x80000001#32 = .error .reservedBitsSet := by rfl
theorem test_decode_rejects_opc : decode 0x00000024#32 = .error .undefinedOpcode := by rfl
/-- The edges of the illegal ranges of rule R84. -/
theorem test_decode_illegal_edges :
    [0x05#32, 0x0F#32, 0x12#32, 0x1F#32, 0x24#32, 0xFF#32, 0x100#32].all
      (fun w => match decode w with | .ok _ => false | .error _ => true) = true := by decide
theorem test_table_word : decodeTableWord 32 0x22 = some .merge ∧ decodeTableWord 32 0x25 = none := by decide
/-- SPLIT from reset: `W = H = 0`, BAD_GEOMETRY (rule R131). -/
theorem test_fetch_word :
    after (step (State.reset.withFetchWord 32 0x20)) statusOf = some (0x00200304#32, 0#32) := by decide

/-! ### The commands: vectors of 95_test_vectors.md, section 2 -/

/-- S2. -/
theorem test_sub_odd : after (exec .sub (ops 8#32 0#32 5#32 { base with
      bitmem := bitsAt [0, 1, 1, 0, 1, 0, 0, 0, 1, 1, 1, 1, 1] })) (fun t => (bitsOf t 8 5, t.olen)) =
    some (known [1, 0, 0, 1, 1], 4#32) := by decide
/-- S4. -/
theorem test_sub_overlap : after (exec .sub (ops 1#32 0#32 4#32 { base with bitmem := bitsAt [1, 0, 1, 0] }))
    (fun t => (statusOf t, bitsOf t 0 4)) = some ((0x00010504#32, 0#32), known [1, 0, 1, 0]) := by decide
/-- X3. -/
theorem test_xor_phase : after (exec .xor (ops 0#32 0#32 7#32 (keyed 0xC0#32 3#16 1#16 { base with
      bitmem := bitsAt [0, 0, 0, 0, 0, 0, 0] }))) (fun t => (bitsOf t 0 7, t.olen)) =
    some (known [1, 0, 1, 1, 0, 1, 1], 7#32) := by decide
/-- X6. -/
theorem test_xor_phase_too_large : after (exec .xor (ops 0#32 0#32 8#32 (keyed 0xC0#32 3#16 3#16 base))) statusOf =
    some (0x00020204#32, 0x00010003#32) := by decide
/-- E5. -/
theorem test_enc : after (exec .enc (ops 0#32 0#32 10#32 (keyed 0xC0#32 4#16 0#16 { base with
      bitmem := bitsAt [1, 0, 1, 1, 0, 0, 1, 1, 1, 0] }))) (fun t => bitsOf t 0 10) =
    some (known [1, 0, 0, 0, 0, 0, 0, 0, 1, 0]) := by decide
/-- E7. -/
theorem test_enc_key_checked : after (exec .enc (ops 0#32 0#32 0#32 base)) statusOf =
    some (0x00030204#32, 0#32) := by decide
/-- E4. -/
theorem test_dec_odd : after (exec .dec (ops 8#32 0#32 5#32 (keyed 0x80#32 2#16 0#16 { base with
      bitmem := bitsAt [0, 1, 0, 1, 1, 0, 0, 0, 1, 1, 1, 1, 1] }))) (fun t => (bitsOf t 8 5, t.olen)) =
    some (known [0, 0, 0, 0, 1], 4#32) := by decide
/-- E8. -/
theorem test_dec_overlap : after (exec .dec (ops 2#32 0#32 4#32 (keyed 0x80#32 2#16 0#16 base))) statusOf =
    some (0x00040504#32, 0#32) := by decide
/-- R1. -/
theorem test_b2p : after (exec .b2p (ops 0#32 0#32 4#32 { base with bitmem := bitsAt [1, 0, 0, 1] }))
    (fun t => (pixelsOf t 0 4, t.olen)) =
    some ([0xFFFFFF#24, 0#24, 0#24, 0xFFFFFF#24].map some, 4#32) := by decide
/-- R3, at this HCB's NP. -/
theorem test_b2p_range : after (exec .b2p (ops 15#32 0#32 2#32 base)) statusOf = some (0x00100404#32, 1#32) := by decide
/-- R2. -/
theorem test_p2b : after (exec .p2b (ops 0#32 0#32 7#32 { base with
      pixmem := Memory.write [] 0 [0#24, 1#24, 0x100#24, 0x10000#24, 0xFFFFFF#24, 0x808080#24, 0#24] }))
    (fun t => bitsOf t 0 7) = some (known [0, 1, 1, 1, 1, 1, 0]) := by decide
/-- R5, at this HCB's NB and NP. -/
theorem test_p2b_empty : after (exec .p2b (ops 64#32 16#32 0#32 base)) (fun t => (statusOf t, t.olen)) =
    some ((2#32, 0#32), 0#32) := by decide
/-- C1. -/
theorem test_split : after (exec .split (shaped 2#16 2#16 { base with
      len := 5#32, fill := 0x123456#24, pixmem := Memory.write [] 0 [1#24, 2#24, 3#24, 4#24, 5#24] }))
    (fun t => (t.fcount, t.olen, pixelsOf t 0 9)) =
    some (2#32, 8#32, [1#24, 2#24, 3#24, 4#24, 5#24, 0x123456#24, 0x123456#24, 0x123456#24].map some ++ [none]) := by
  decide
/-- C2. -/
theorem test_split_geometry : after (exec .split (shaped 0#16 5#16 { base with len := 1#32 })) statusOf =
    some (0x00200304#32, 0x00050000#32) := by decide
/-- The example of rule R132. -/
theorem test_fpush : after (exec .fpush (shaped 2#16 2#16 { base with
      fidx := 2#32, stage := Memory.write [] 0 [0xFFFFFF#24, 0#24, 0#24, 0xFFFFFF#24] }))
    (fun t => (pixelsOf t 8 4, t.present, t.pcap, t.olen)) =
    some ([0xFFFFFF#24, 0#24, 0#24, 0xFFFFFF#24].map some, [2], 4#32, 4#32) := by decide
/-- C15. -/
theorem test_fpush_duplicate : after (exec .fpush (shaped 2#16 2#16 { base with present := [0], pcap := 4#32 }))
    (fun t => (statusOf t, t.pixmem)) = some ((0x00210704#32, 0#32), []) := by decide
/-- C11d. -/
theorem test_merge : after (exec .merge (shaped 2#16 2#16 { base with present := [0, 1, 2], pcap := 4#32 }))
    (fun t => (statusOf t, t.fcount, t.olen)) = some ((2#32, 0#32), 3#32, 12#32) := by decide
/-- C11b. -/
theorem test_merge_missing : after (exec .merge (shaped 2#16 2#16 { base with present := [0, 2], pcap := 4#32 }))
    statusOf = some (0x00220804#32, 1#32) := by decide
/-- C16. -/
theorem test_fclr : after (exec .fclr { base with present := [0, 1, 2], pcap := 4#32, olen := 12#32, fcount := 3#32 })
    (fun t => (t.present, t.pcap, readReg t .status, t.olen, t.fcount)) =
    some ([], 0#32, 2#32, 12#32, 3#32) := by decide
/-- K2. -/
theorem test_nop : after (exec .nop base) statusOf = some (2#32, 0#32) := by decide

/-- Entry I3 of 93_implementation_defined.md: BIT(0), PIX(0) and STG(0) are unspecified, the element after each is not;
a result is unspecified in the elements computed from them, and only there. -/
theorem test_unspecified_source :
    after (exec .enc (ops 0#32 0#32 2#32 (keyed 0x80#32 2#16 0#16 { base with bitmem := [(1, true)] })))
      (fun t => bitsOf t 0 2) = some [none, some false] ∧
    after (exec .b2p (ops 0#32 0#32 2#32 { base with bitmem := [(1, true)] }))
      (fun t => pixelsOf t 0 2) = some [none, some 0xFFFFFF#24] ∧
    after (exec .p2b (ops 0#32 0#32 2#32 { base with bitmem := bitsAt [1, 1], pixmem := [(1, 0#24)] }))
      (fun t => bitsOf t 0 2) = some [none, some false] ∧
    after (exec .fpush (shaped 2#16 1#16 { base with pixmem := [(0, 9#24)], stage := [(1, 7#24)] }))
      (fun t => pixelsOf t 0 2) = some [none, some 7#24] := by decide

/-! ### The bus and control: vectors of 95_test_vectors.md, section 2.6 -/

/-- K1, from the host's write on. -/
theorem test_illegal_command : after (runSteps 2 { base with host := [Program.wr .cmd 0x00000005#32] }) statusOf =
    some (0x00050104#32, 0x00000005#32) := by decide
/-- K4 and K4c: a pending error is an interrupt, and clearing DONE leaves it. -/
theorem test_clear_done_keeps_err : after (step { base with
      err := true, errCode := 1#8, errCmd := 0x99#8, doneIE := true, errIE := true, host := [Program.clrDone] })
    (fun t => (readReg t .status, t.irq)) = some (0x00990104#32, true) := by decide
/-- K4d. -/
theorem test_clear_err : after (step { base with
      err := true, errCode := 1#8, errCmd := 0x99#8, errInfo := 0x99#32, errIE := true, host := [Program.clrErr] })
    (fun t => (statusOf t, t.irq)) = some ((0#32, 0#32), false) := by decide
/-- K6. -/
theorem test_width_reserved_bits : after (runSteps 2 { base with
      host := [Program.wr .width 0x12345678#32, Program.rd .width] }) (fun t => t.replies.head?) =
    some (some (.data 0x00005678#32)) := by decide
/-- The example of rule R64. -/
theorem test_bitmem_packing : after (step { base with host := [Program.wrb 0 0x44434241#32] }) (fun t => bitsOf t 0 32) =
    some (known [0, 1, 0, 0, 0, 0, 0, 1, 0, 1, 0, 0, 0, 0, 1, 0, 0, 1, 0, 0, 0, 0, 1, 1, 0, 1, 0, 0, 0, 1, 0, 0]) := by
  decide
/-- BIT(8) = 1, others 0: `RDB 0` = 0x00008000 (section 2.4). -/
theorem test_bitmem_read : after (step { base with
      bitmem := Memory.write (Memory.write [] 0 (List.replicate 32 false)) 8 [true], host := [Program.rdb 0] })
    (fun t => t.replies) = some [.data 0x00008000#32] := by decide
/-- `WRP 0, 0x01ABCDEF` then `RDP 0` = 0x00ABCDEF (section 2.4). -/
theorem test_pixel_word : after (runSteps 2 { base with host := [Program.wrp 0 0x01ABCDEF#32, Program.rdp 0] })
    (fun t => t.replies.head?) = some (some (.data 0x00ABCDEF#32)) := by decide
/-- The bus errors listed in section 2.6, at this HCB's parameters: width, alignment, a reserved register offset, the
first key past KMAX, past BITMEM, past PIXMEM, past STAGE. -/
theorem test_bus_errors :
    [HostInput.read 1 0x000#26, .read 4 0x002#26, .read 4 0x054#26, .read 4 0x104#26, .write 4 0x1000008#26 0#32,
     .write 4 0x2000040#26 0#32, .write 4 0x3000020#26 0#32].map (fun a => faultOf (step { base with host := [a] })) =
    [some .busErrorWidth, some .busErrorMisaligned, some .busErrorUnmapped, some .busErrorUnmapped,
     some .busErrorUnmapped, some .busErrorUnmapped, some .busErrorUnmapped] := by decide
/-- K5, the memory kept. -/
theorem test_soft_reset : after (step { base with
      keylen := 5#16, width := 7#16, err := true, errCode := 1#8, bitmem := bitsAt [1], host := [Program.srst] })
    (fun t => (statusOf t, t.keylen, t.width, t.bitmem)) = some ((0#32, 0#32), 0#16, 0#16, bitsAt [1]) := by decide

/-- `NOP ; WAIT`, one poll before the engine step (rules R86, R187): the first answer has BUSY = 1, the second DONE. -/
theorem test_wait : after (runSteps 3 { flying .nop base with delay := 1, host := [Program.wait, Program.rd .id] })
    (fun t => (t.replies, t.host)) = some ([.data 2#32, .data 1#32], [Program.rd .id]) := by decide
/-- Rule R181: power-on reset while a command is in flight. -/
theorem test_power_on : after (step { flying .sub (ops 0#32 0#32 2#32 base) with
      delay := 1, host := [.powerOn], present := [0], pcap := 4#32, bitmem := bitsAt [1, 0] })
    (fun t => (statusOf t, t.src, t.present, t.bitmem.length, t.inflight)) =
    some ((0#32, 0#32), 0#32, [], 0, none) := by decide

/-! ### Witnesses: for each obligation with hypotheses, a state that meets them, clause by clause -/

theorem engineTurn_alone (s : State) (h : s.host = []) : engineTurn s := by
  intro a rest hh; rw [h] at hh; cases hh

theorem base_inv : base.Inv :=
  ⟨⟨by decide, by decide, by decide, by decide, by decide, by decide⟩, ⟨by decide, by decide, by decide, by decide⟩,
    ⟨by decide, by decide, by decide⟩⟩

theorem witness_StepRunsTheDecodedCommand :
    ∃ s w i, s.inflight = some w ∧ engineTurn s ∧ decode w = .ok i :=
  ⟨flying .merge base, _, .merge, rfl, engineTurn_alone _ rfl, by rfl⟩
/-- The other way the engine's turn comes: an exempt access waits and none is due. -/
theorem witness_engineTurn_exempt_waiting :
    engineTurn { flying .sub base with host := [Program.rd .status], delay := 0 } := fun _ _ _ => .inr rfl
theorem witness_IllegalWordRaisesIllegalCmd :
    ∃ s w e, s.inflight = some w ∧ engineTurn s ∧ decode w = .error e :=
  ⟨{ base with inflight := some 0x00000105#32 }, _, .reservedBitsSet, rfl, engineTurn_alone _ rfl, by rfl⟩
theorem witness_CmdWrite_discarded : ∃ (s : State) (w : Word), s.host = [.write 4 0x010#26 w] ∧ s.inflight = none ∧
    s.err = true := ⟨{ base with err := true, host := [.write 4 0x010#26 1#32] }, _, rfl, rfl, rfl⟩
theorem witness_CmdWrite_accepted : ∃ (s : State) (w : Word), s.host = [.write 4 0x010#26 w] ∧ s.inflight = none ∧
    s.err = false := ⟨{ base with host := [.write 4 0x010#26 0xFFFFFFFF#32] }, _, rfl, rfl, rfl⟩
theorem witness_CmdWrite_held : ∃ (s : State) (w w' : Word), s.host = [.write 4 0x010#26 w] ∧ s.inflight = some w' :=
  ⟨{ flying .fclr base with host := [.write 4 0x010#26 1#32] }, _, _, rfl, rfl⟩
theorem witness_IssuedCommandIsRun : ∃ (s : State) (i : Instr), s.inflight = none ∧ s.err = false ∧
    s.host = [.write 4 0x010#26 (encode i)] := ⟨{ base with host := [Program.command .enc] }, .enc, rfl, rfl, rfl⟩
theorem witness_PendingErrorDiscardsEveryCommand : ∃ (ws : List Word) (s : State), s.inflight = none ∧ s.err = true ∧
    s.host = ws.map (fun w => HostInput.write 4 0x010#26 w) :=
  ⟨[1#32, 0xFF#32], { base with err := true, host := [.write 4 0x010#26 1#32, .write 4 0x010#26 0xFF#32] }, rfl, rfl, rfl⟩
theorem witness_PendingErrorStaysUntilItIsCleared : ∃ s t : State, s.Inv ∧ s.err = true ∧ step s = .next t :=
  ⟨{ base with err := true, errCode := 8#8, host := [Program.rd .status] }, _,
    ⟨⟨by decide, by decide, by decide, by decide, by decide, by decide⟩, ⟨by decide, by decide, by decide, by decide⟩,
      ⟨by decide, by decide, by decide⟩⟩, rfl, rfl⟩
/-- The three inputs that end a pending error, in states of the invariant (rule R165). -/
theorem witness_clearsError : clearsError Program.clrErr ∧ clearsError Program.srst ∧ clearsError .powerOn :=
  ⟨.inl ⟨4#32, rfl, by decide⟩, .inr (.inl ⟨1#32, rfl, by decide⟩), .inr (.inr rfl)⟩
/-- A WAIT on an idle block, due while BUSY = 1, and waiting for the engine. -/
theorem witness_Wait : ∃ s u v : State, s.host = [.wait] ∧ s.inflight = none ∧ hostTurn s .wait ∧
    u.host = [.wait] ∧ u.inflight ≠ none ∧ hostTurn u .wait ∧ v.host = [.wait] ∧ engineTurn v :=
  ⟨{ base with host := [.wait] }, { flying .nop base with host := [.wait], delay := 1 },
    { flying .nop base with host := [.wait] }, rfl, rfl, .inl rfl, rfl, by decide, .inr ⟨rfl, by decide⟩, rfl,
    fun _ _ _ => .inr rfl⟩
theorem witness_HeldAccessWaitsForTheCommand : ∃ (s : State) (w : Word) (a : HostInput) (rest : List HostInput),
    s.inflight = some w ∧ s.host = a :: rest ∧ exempt s.params a = false :=
  ⟨{ flying .b2p base with host := [Program.rd .olen], delay := 7 }, _, _, _, rfl, rfl, by decide⟩
theorem witness_CommandInFlightEnds : ∃ (s : State) (w : Word), s.inflight = some w ∧ s.delay = 2 :=
  ⟨{ flying .nop base with delay := 2, host := [Program.rd .id, Program.rd .ctrl] }, _, rfl, rfl⟩
theorem witness_IdleBlockDoesNothing : ∃ s : State, s.inflight = none ∧ s.host = [] := ⟨base, rfl, rfl⟩
theorem witness_SubstMapsPairs : ∃ (l : List Bool) (j : Nat) (a b x y : Bool),
    (a, b, x, y) ∈ [(false, false, true, true), (false, true, true, false), (true, false, false, true),
      (true, true, false, false)] ∧ l[2 * j]? = some a ∧ l[2 * j + 1]? = some b :=
  ⟨[true, false, true, true, false], 1, true, true, false, false, by decide, rfl, rfl⟩
/-- W1. -/
theorem test_substitution_table : subst (digits [0, 0, 0, 1, 1, 0, 1, 1]) = digits [1, 1, 1, 0, 0, 1, 0, 0] := by decide
theorem witness_SubstComplements : ∃ (l : List Bool) (i : Nat), i < 2 * (l.length / 2) := ⟨[true, false, true], 1, by decide⟩

theorem witness_Sub_range_source : small.nb < (ops 0#32 63#32 2#32 base).src.toNat + (2#32 : Word).toNat := by decide
theorem witness_Sub_range_destination : (0#32 : Word).toNat + (4#32 : Word).toNat ≤ small.nb ∧
    small.nb < (61#32 : Word).toNat + 2 * ((4#32 : Word).toNat / 2) := by decide
theorem witness_Sub_overlap : ∃ s : State, s.src.toNat + s.len.toNat ≤ s.params.nb ∧
    s.dst.toNat + 2 * (s.len.toNat / 2) ≤ s.params.nb ∧ 0 < 2 * (s.len.toNat / 2) ∧ s.src.toNat < s.dst.toNat ∧
    s.dst.toNat < s.src.toNat + s.len.toNat := ⟨ops 3#32 0#32 4#32 base, by decide⟩
/-- Both ranges end at NB (S7), the edge of the destination outside the source (S11), and no bit at all (S9, S13). -/
theorem witness_layoutOk :
    layoutOk (ops 60#32 59#32 5#32 base) 0 ∧ layoutOk (ops 60#32 0#32 5#32 base) 4 ∧
    layoutOk (ops 8#32 0#32 8#32 base) 8 ∧ layoutOk (ops 0#32 64#32 0#32 base) 0 ∧ layoutOk (ops 1#32 0#32 1#32 base) 0 := by
  unfold layoutOk; decide
/-- KEYLEN 0 and above KMAX, a phase at KEYLEN, and the legal edges `L = KMAX`, `P = L - 1` and `L = 1` (X4 to X9). -/
theorem witness_key_clauses :
    (keyed 0#32 0#16 0#16 base).keylen.toNat = 0 ∧ small.kmax < (keyed 0#32 33#16 0#16 base).keylen.toNat ∧
    (1 ≤ (keyed 0#32 3#16 3#16 base).keylen.toNat ∧ (keyed 0#32 3#16 3#16 base).keylen.toNat ≤ small.kmax ∧
      (keyed 0#32 3#16 3#16 base).keylen.toNat ≤ (keyed 0#32 3#16 3#16 base).kphase.toNat) ∧
    keyOk (keyed 0#32 32#16 31#16 base) ∧ keyOk (keyed 0#32 1#16 0#16 base) := by unfold keyOk; decide
/-- The success clause of XOR, ENC and DEC together. -/
theorem witness_keyed_success : ∃ s : State, keyOk s ∧ layoutOk s s.len.toNat ∧ layoutOk s (2 * (s.len.toNat / 2)) :=
  ⟨ops 32#32 0#32 32#32 (keyed 0xAA#32 8#16 7#16 base), by unfold keyOk layoutOk; decide⟩
/-- The clauses of B2P: past the source, past the destination, both ranges ending at the end of their memory. -/
theorem witness_B2p_clauses :
    (small.nb < (63#32 : Word).toNat + (2#32 : Word).toNat) ∧
    ((62#32 : Word).toNat + (2#32 : Word).toNat ≤ small.nb ∧ small.np < (15#32 : Word).toNat + (2#32 : Word).toNat) ∧
    ((62#32 : Word).toNat + (2#32 : Word).toNat ≤ small.nb ∧ (14#32 : Word).toNat + (2#32 : Word).toNat ≤ small.np) := by decide
/-- The clauses of P2B. -/
theorem witness_P2b_clauses :
    (small.np < (15#32 : Word).toNat + (2#32 : Word).toNat) ∧
    ((14#32 : Word).toNat + (2#32 : Word).toNat ≤ small.np ∧ small.nb < (63#32 : Word).toNat + (2#32 : Word).toNat) ∧
    ((14#32 : Word).toNat + (2#32 : Word).toNat ≤ small.np ∧ (62#32 : Word).toNat + (2#32 : Word).toNat ≤ small.nb) := by decide
/-- `N` and the capacity for `LEN = 16 = NP`: C = 3 pads past PIXMEM (as C4), C = 4 ends at NP, and `LEN = 17` is past it. -/
theorem witness_Split_clauses :
    (16 ≤ 6 * 3 ∧ (∀ k, 16 ≤ k * 3 → 6 ≤ k) ∧ small.np < 6 * 3) ∧
    (16 ≤ 4 * 4 ∧ (∀ k, 16 ≤ k * 4 → 4 ≤ k) ∧ 4 * 4 ≤ small.np) ∧ small.np < 17 ∧
    (shaped 0#16 5#16 base).width.toNat * (shaped 0#16 5#16 base).height.toNat = 0 := by
  refine ⟨⟨by decide, fun k h => by omega, by decide⟩, ⟨by decide, fun k h => by omega, by decide⟩, by decide, by decide⟩
/-- FPUSH: C = 0, C above CMAX, another capacity latched, the slot past NP, a duplicate, and the last slot free. -/
theorem witness_Fpush_clauses :
    small.cmax < (shaped 3#16 3#16 base).capacity ∧ (shaped 0#16 3#16 base).capacity = 0 ∧
    (let s := shaped 2#16 2#16 { base with pcap := 3#32 }; s.pcap ≠ 0#32 ∧ s.capacity ≠ s.pcap.toNat) ∧
    (let s := shaped 2#16 2#16 { base with fidx := 4#32 }; s.pcap = 0#32 ∧ small.np < (s.fidx.toNat + 1) * s.capacity) ∧
    (let s := shaped 2#16 2#16 { base with fidx := 3#32, pcap := 4#32, present := [3] };
      s.capacity = s.pcap.toNat ∧ (s.fidx.toNat + 1) * s.capacity ≤ small.np ∧ s.fidx.toNat ∈ s.present) ∧
    (let s := shaped 2#16 4#16 { base with fidx := 1#32, pcap := 8#32, present := [0] };
      s.capacity ≤ small.cmax ∧ s.capacity = s.pcap.toNat ∧ (s.fidx.toNat + 1) * s.capacity ≤ small.np ∧
      s.fidx.toNat ∉ s.present) := by decide
/-- MERGE: no frame (N = 0), frames 0 and 2 (N = 3, the absent 1), frames 0, 1 (N = 2, none absent). -/
theorem witness_Merge_clauses :
    ((0 : Nat) = 0 ∧ base.present = []) ∧
    (2 ∈ [0, 2] ∧ (∀ f ∈ [0, 2], f ≤ 2) ∧ 1 < 3 ∧ 1 ∉ [0, 2] ∧ (∀ f, f < 1 → f ∈ [0, 2])) ∧
    (1 ∈ [0, 1] ∧ (∀ f ∈ [0, 1], f ≤ 1) ∧ (∀ f, f < 2 → f ∈ [0, 1])) := by decide

/-- A command that raises an error and one that completes, in a state with DONE = 0, as `CommandErrorsArePrecise`,
`CommandsLeaveOperandsAlone`, `CommandsWriteOnlyTheirDestination` and `OutputRegistersChangeOnlyOnSuccess` ask. -/
theorem witness_exec_answers : ∃ s t u : State, s.params.wf ∧ s.done = false ∧ exec .xor s = .next t ∧
    exec .sub s = .next u := ⟨ops 2#32 0#32 2#32 base, _, _, by decide, rfl, rfl, rfl⟩
/-- Elements in and outside the destination of a completed command (rule R69). -/
theorem witness_destination : ∃ s u : State, exec .sub s = .next u ∧ destinationBit .sub s u 3 ∧ ¬ destinationBit .sub s u 4 :=
  ⟨ops 2#32 0#32 2#32 base, _, rfl, by unfold destinationBit; decide, by unfold destinationBit; decide⟩
/-- OLEN and FCOUNT do change. -/
theorem witness_OutputRegistersChange : ∃ s t : State, s.done = false ∧ exec .split s = .next t ∧ t.fcount ≠ s.fcount ∧
    t.olen ≠ s.olen := ⟨shaped 2#16 2#16 { base with len := 5#32 }, _, rfl, rfl, by decide, by decide⟩
/-- Keys that agree on their first L bits and differ after them (X8). -/
theorem witness_UnusedKeyBits : ∃ (s : State) (key' : List Word), s.key ≠ key' ∧
    (∀ j, j < s.keylen.toNat → State.keyBit { s with key := key' } j = s.keyBit j) ∧ ∃ t, exec .xor s = .next t :=
  ⟨keyed 0xAA#32 3#16 0#16 base, [0xBF#32], by decide, by decide, _, rfl⟩
theorem witness_EncAndDec : ∃ s : State, keyOk s ∧ layoutOk s (2 * (s.len.toNat / 2)) :=
  ⟨ops 0#32 0#32 4#32 (keyed 0x80#32 2#16 0#16 base), by unfold keyOk layoutOk; decide⟩
/-- An odd source whose output goes elsewhere and back (`SubTwiceRestores`, `DecUndoesEnc`). -/
theorem witness_restores : ∃ (s : State) (d : Word), keyOk s ∧ layoutOk s (2 * (s.len.toNat / 2)) ∧
    layoutOk { s with src := s.dst, dst := d, len := BitVec.ofNat 32 (2 * (s.len.toNat / 2)) } (2 * (s.len.toNat / 2)) :=
  ⟨ops 8#32 0#32 5#32 (keyed 0x80#32 2#16 1#16 base), 0#32, by unfold keyOk layoutOk; decide⟩
theorem witness_XorTwiceRestores : ∃ (s : State) (d : Word), keyOk s ∧ layoutOk s s.len.toNat ∧
    layoutOk { s with src := s.dst, dst := d } s.len.toNat :=
  ⟨ops 0#32 0#32 3#32 (keyed 0x80#32 2#16 0#16 base), 0#32, by unfold keyOk layoutOk; decide⟩
/-- E5 and E5b. -/
theorem witness_SegmentedEnc : ∃ (s : State) (a : Nat), s.params.wf ∧ keyOk s ∧ layoutOk s (2 * (s.len.toNat / 2)) ∧
    a % 2 = 0 ∧ a ≤ s.len.toNat :=
  ⟨ops 0#32 0#32 10#32 (keyed 0xC0#32 4#16 0#16 { base with bitmem := bitsAt [1, 0, 1, 1, 0, 0, 1, 1, 1, 0] }), 6,
    by unfold keyOk layoutOk; decide⟩
/-- R6. -/
theorem witness_P2bInvertsB2p : ∃ (s : State) (d : Word), s.src.toNat + s.len.toNat ≤ s.params.nb ∧
    s.dst.toNat + s.len.toNat ≤ s.params.np ∧ d.toNat + s.len.toNat ≤ s.params.nb :=
  ⟨ops 6#32 0#32 10#32 base, 54#32, by decide⟩
/-- Five pixels in frames of four, pushed in the order 1, 0, the last pixels read as they stand. -/
theorem witness_SplitPushMerge : ∃ (s : State) (n c : Nat) (order : List Nat), s.params.wf ∧
    c = s.width.toNat * s.height.toNat ∧ 0 < c ∧ c ≤ s.params.cmax ∧ s.len.toNat ≤ n * c ∧
    (∀ k, s.len.toNat ≤ k * c → n ≤ k) ∧ n * c ≤ s.params.np ∧ s.err = false ∧ order.Perm (List.range n) :=
  ⟨shaped 2#16 2#16 { base with len := 5#32 }, 2, 4, [1, 0], by decide, by decide, by decide, by decide, by decide,
    fun k h => by have h : 5 ≤ k * 4 := h; omega, by decide, rfl, by decide⟩
/-- What the host reads of the frames agrees with PIXMEM after SPLIT. -/
theorem witness_frames_read : ∃ (t : State) (frames : Nat → Pixel),
    exec .split (shaped 2#16 2#16 { base with len := 5#32, fill := 7#24 }) = .next t ∧
    ∀ p x, t.pixmem.get p = some x → frames p = x :=
  ⟨_, fun p => ((Memory.get p [(5, 7#24), (6, 7#24), (7, 7#24)])).getD 0#24, rfl, fun p x h => by
    have h : Memory.get p [(5, 7#24), (6, 7#24), (7, 7#24)] = some x := h
    show (Memory.get p [(5, 7#24), (6, 7#24), (7, 7#24)]).getD 0#24 = x
    rw [h]; rfl⟩
theorem witness_CanvasIsRowMajor : ∃ (s : State) (k : Nat), k < s.width.toNat * s.height.toNat :=
  ⟨shaped 3#16 2#16 base, 5, by decide⟩
theorem witness_EveryStepKeepsTheInvariant : ∃ s t : State, s.Inv ∧ step s = .next t :=
  ⟨{ base with host := [Program.wr .cmd 0x23#32] }, _,
    ⟨⟨by decide, by decide, by decide, by decide, by decide, by decide⟩, ⟨by decide, by decide, by decide, by decide⟩,
      ⟨by decide, by decide, by decide⟩⟩, rfl⟩
/-- Frame 1 of capacity 8 ends at NP = 16. -/
theorem witness_MergedFramesFitPixmem : ∃ s t : State, s.Inv ∧ s.inflight ≠ none ∧ exec .merge s = .next t ∧
    t.done = true :=
  ⟨flying .merge (shaped 2#16 4#16 { base with present := [0, 1], pcap := 8#32 }), _,
    ⟨⟨by decide, by decide, by decide, by decide, by decide, by decide⟩, ⟨by decide, by decide, by decide, by decide⟩,
      ⟨by decide, by decide, by decide⟩⟩, by decide, rfl, rfl⟩
/-- Both turns of the host: an idle block, and an exempt access due. -/
theorem witness_StatusWrite : ∃ (s u : State) (v : Word), s.host = [.write 4 0x008#26 v] ∧
    hostTurn s (.write 4 0x008#26 v) ∧ u.host = [.write 4 0x008#26 v] ∧ u.inflight ≠ none ∧
    hostTurn u (.write 4 0x008#26 v) :=
  ⟨{ base with host := [.write 4 0x008#26 6#32] }, { flying .nop base with host := [.write 4 0x008#26 6#32], delay := 1 },
    6#32, rfl, .inl rfl, rfl, by decide, .inr ⟨by decide, by decide⟩⟩
/-- A fixed register and the last key register. -/
theorem witness_RegistersAreRead : ∃ (s u : State) (c : Offset × Word), s.params.wf ∧ s.inflight = none ∧
    c ∈ registerPage s ∧ s.host = [.read 4 c.1] ∧ 0 < u.params.kmax / 32 ∧ u.host = [.read 4 0x100#26] :=
  ⟨{ base with host := [.read 4 0x050#26] }, { base with host := [.read 4 0x100#26] }, (0x050#26, 32#32), by decide, rfl,
    by decide, rfl, by decide, rfl⟩
/-- Every exempt access is performed while BUSY = 1 and it is due: the eight reads (`RegistersAreReadAtTheirOffsets`,
`ReadsHaveNoSideEffects`, `AccessesAreAnsweredExactlyWhenMapped`), the IRQ_EN write (`RegisterWriteReadsBack`), the CTRL
write with bit 0 = 0 (`SoftResetWhenIdle`), the power-on reset (`PowerOnState`). -/
theorem witness_exempt_while_busy :
    (∀ r ∈ [Reg.id, .ctrl, .status, .irqEn, .paramNB, .paramNP, .paramCMAX, .paramKMAX],
      hostTurn { flying .sub base with host := [Program.rd r], delay := 1 } (Program.rd r)) ∧
    storedBits .irqEn = some 3#32 ∧
    hostTurn { flying .sub base with host := [Program.wr .irqEn 3#32], delay := 1 } (Program.wr .irqEn 3#32) ∧
    hostTurn { flying .sub base with host := [.write 4 0x004#26 2#32], delay := 1 } (.write 4 0x004#26 2#32) ∧
    hostTurn { flying .sub base with host := [.powerOn], delay := 1 } .powerOn := by
  refine ⟨fun r hr => .inr ⟨?_, Nat.zero_lt_one⟩, rfl, .inr ⟨by decide, by decide⟩, .inr ⟨by decide, by decide⟩,
    .inr ⟨by decide, by decide⟩⟩
  revert r
  decide
/-- A plain register and the last key register. -/
theorem witness_RegisterWrite : ∃ (s u : State) (v : Word), s.params.wf ∧ s.key.length = s.params.kmax / 32 ∧
    s.inflight = none ∧ storedBits .fill = some 0x00FFFFFF#32 ∧ s.host = [Program.wr .fill v] ∧ u.inflight = none ∧
    storedBits (.key 0) = some 0xFFFFFFFF#32 ∧ 0 < u.params.kmax / 32 ∧ u.host = [Program.wr (.key 0) v] :=
  ⟨{ base with host := [Program.wr .fill 0xFF123456#32] }, { base with host := [Program.wr (.key 0) 0xFF123456#32] },
    0xFF123456#32, by decide, by decide, rfl, rfl, rfl, rfl, rfl, by decide, rfl⟩
theorem witness_ReadOnly : ∃ (s : State) (r : Reg) (v : Word),
    r ∈ [Reg.id, .olen, .fcount, .errInfo, .paramNB, .paramNP, .paramCMAX, .paramKMAX] ∧ s.inflight = none ∧
    s.host = [Program.wr r v] := ⟨{ base with host := [Program.wr .olen 5#32] }, .olen, 5#32, by decide, rfl, rfl⟩
theorem witness_ReadsHaveNoSideEffects : ∃ (s t : State) (width : Nat) (off : Offset), s.inflight = none ∧
    s.host = [.read width off] ∧ step s = .next t :=
  ⟨{ base with host := [Program.rds 7] }, _, 4, 0x300001C#26, rfl, rfl, rfl⟩
/-- The last mapped and the first unmapped offset of each region. -/
theorem witness_Accesses :
    (∀ o ∈ [0x050, 0x100, 0x1000004, 0x200003C, 0x300001C], mapped small o) ∧
    (∀ o ∈ [0x054, 0x0FC, 0x104, 0x1000008, 0x2000040, 0x3000020], ¬ mapped small o) := by
  unfold mapped; decide
/-- The last BITMEM word (`BitmemWordPacking`, `BytesAreLoadedMostSignificantBitFirst`). -/
theorem witness_Bitmem : ∃ (s u : State) (v : Word), s.inflight = none ∧ s.params.wf ∧ 1 < s.params.nb / 32 ∧
    s.host = [Program.wrb 1 v] ∧ u.host = [Program.rdb 1] :=
  ⟨{ base with host := [Program.wrb 1 1#32] }, { base with host := [Program.rdb 1] }, 1#32, rfl, by decide, by decide, rfl, rfl⟩
/-- The last pixel of PIXMEM and of STAGE. -/
theorem witness_PixelWord : ∃ (s u : State) (v : Word), s.inflight = none ∧ s.params.wf ∧ 15 < s.params.np ∧
    s.host = [Program.wrp 15 v, Program.rdp 15] ∧ 7 < u.params.cmax ∧ u.host = [Program.wrs 7 v, Program.rds 7] :=
  ⟨{ base with host := [Program.wrp 15 1#32, Program.rdp 15] }, { base with host := [Program.wrs 7 1#32, Program.rds 7] },
    1#32, rfl, by decide, by decide, rfl, by decide, rfl⟩
theorem witness_SoftResetWhenIdle : ∃ (s u : State) (v w : Word), s.inflight = none ∧ s.host = [.write 4 0x004#26 v] ∧
    v.getLsbD 0 = true ∧ u.host = [.write 4 0x004#26 w] ∧ w.getLsbD 0 = false :=
  ⟨{ base with host := [Program.srst] }, { base with host := [.write 4 0x004#26 2#32] }, 1#32, 2#32, rfl, rfl, by decide,
    rfl, by decide⟩
/-- A command with a destination in BITMEM, one with a destination in PIXMEM and an illegal word, abandoned. -/
theorem witness_SoftResetDuringACommand : ∃ (s r x u q : State) (v : Word), s.params.wf ∧ s.done = false ∧ 0 < s.delay ∧
    s.host = [.write 4 0x004#26 v] ∧ v.getLsbD 0 = true ∧ s.inflight = some (encode .sub) ∧
    engineStep (encode .sub) s = .next u ∧ abandonedBit (encode .sub) s u 0 ∧
    r.host = s.host ∧ r.inflight = some (encode .split) ∧ r.done = false ∧ 0 < r.delay ∧
    engineStep (encode .split) r = .next q ∧ abandonedPixel (encode .split) r q 7 ∧
    x.host = s.host ∧ x.inflight = some 0x00000105#32 ∧ x.done = false ∧ 0 < x.delay ∧
    (∃ e, decode 0x00000105#32 = .error e) :=
  ⟨flying .sub (ops 0#32 0#32 2#32 { base with host := [Program.srst], delay := 1 }),
    flying .split (shaped 2#16 2#16 { base with len := 5#32, host := [Program.srst], delay := 1 }),
    { base with inflight := some 0x00000105#32, host := [Program.srst], delay := 1 }, _, _, 1#32,
    by decide, rfl, by decide, rfl, by decide, rfl, rfl,
    ⟨.sub, by rfl, by unfold destinationBit; decide⟩, rfl, rfl, rfl, by decide, rfl,
    ⟨.split, by rfl, by unfold destinationPixel; decide⟩, rfl, rfl, rfl, by decide, .reservedBitsSet, by rfl⟩

end Sys2Proof.Machine.Tests
end

section
/-! PROOFS. The frame of a command's effect: which fields no command that passes its checks can change (10_state.md rule
R47). `commandEffect_frame` looks at the eleven commands once, the lemmas of the fields follow from it. -/

namespace Sys2Proof.Machine

/-- A command that passes its checks changes BITMEM, PIXMEM, `OLEN`, `FCOUNT` and the frame bookkeeping at most. -/
theorem commandEffect_frame (i : Instr) (s : State) :
    commandEffect i s = { s with
      bitmem := (commandEffect i s).bitmem, pixmem := (commandEffect i s).pixmem,
      olen := (commandEffect i s).olen, fcount := (commandEffect i s).fcount,
      present := (commandEffect i s).present, pcap := (commandEffect i s).pcap } := by
  cases i <;> rfl

variable (i : Instr) (s : State)

@[simp] theorem commandEffect_params : (commandEffect i s).params = s.params := by rw [commandEffect_frame]
@[simp] theorem commandEffect_done : (commandEffect i s).done = s.done := by rw [commandEffect_frame]
@[simp] theorem commandEffect_err : (commandEffect i s).err = s.err := by rw [commandEffect_frame]
@[simp] theorem commandEffect_errCode : (commandEffect i s).errCode = s.errCode := by rw [commandEffect_frame]
@[simp] theorem commandEffect_errCmd : (commandEffect i s).errCmd = s.errCmd := by rw [commandEffect_frame]
@[simp] theorem commandEffect_doneIE : (commandEffect i s).doneIE = s.doneIE := by rw [commandEffect_frame]
@[simp] theorem commandEffect_errIE : (commandEffect i s).errIE = s.errIE := by rw [commandEffect_frame]
@[simp] theorem commandEffect_src : (commandEffect i s).src = s.src := by rw [commandEffect_frame]
@[simp] theorem commandEffect_dst : (commandEffect i s).dst = s.dst := by rw [commandEffect_frame]
@[simp] theorem commandEffect_len : (commandEffect i s).len = s.len := by rw [commandEffect_frame]
@[simp] theorem commandEffect_width : (commandEffect i s).width = s.width := by rw [commandEffect_frame]
@[simp] theorem commandEffect_height : (commandEffect i s).height = s.height := by rw [commandEffect_frame]
@[simp] theorem commandEffect_fill : (commandEffect i s).fill = s.fill := by rw [commandEffect_frame]
@[simp] theorem commandEffect_fidx : (commandEffect i s).fidx = s.fidx := by rw [commandEffect_frame]
@[simp] theorem commandEffect_errInfo : (commandEffect i s).errInfo = s.errInfo := by rw [commandEffect_frame]
@[simp] theorem commandEffect_keylen : (commandEffect i s).keylen = s.keylen := by rw [commandEffect_frame]
@[simp] theorem commandEffect_kphase : (commandEffect i s).kphase = s.kphase := by rw [commandEffect_frame]
@[simp] theorem commandEffect_key : (commandEffect i s).key = s.key := by rw [commandEffect_frame]
@[simp] theorem commandEffect_stage : (commandEffect i s).stage = s.stage := by rw [commandEffect_frame]
@[simp] theorem commandEffect_inflight : (commandEffect i s).inflight = s.inflight := by rw [commandEffect_frame]
@[simp] theorem commandEffect_draws : (commandEffect i s).draws = s.draws := by rw [commandEffect_frame]
@[simp] theorem commandEffect_host : (commandEffect i s).host = s.host := by rw [commandEffect_frame]
@[simp] theorem commandEffect_replies : (commandEffect i s).replies = s.replies := by rw [commandEffect_frame]

/-- `FCOUNT` is an output of SPLIT and MERGE alone (rule R35). -/
theorem commandEffect_fcount {i : Instr} (hs : i ≠ .split) (hm : i ≠ .merge) (s : State) :
    (commandEffect i s).fcount = s.fcount := by
  cases i
  case split => exact absurd rfl hs
  case merge => exact absurd rfl hm
  all_goals rfl

/-- NOP and FCLR have no output length (rule R30). -/
theorem commandEffect_olen {i : Instr} (h : i = .nop ∨ i = .fclr) (s : State) :
    (commandEffect i s).olen = s.olen := by
  rcases h with rfl | rfl <;> rfl

/-- Settles O31: the error entry and the frame of a command's effect leave every operand alone. -/
theorem commandsLeaveOperandsAlone : Obligations.CommandsLeaveOperandsAlone := by
  intro i s t h
  obtain ⟨e, -, rfl⟩ | ⟨-, rfl⟩ := exec_cases h
  · simp
  · simp

/-- Settles O33: an error changes neither output register, and a completed command only those of its effect. -/
theorem outputRegistersChangeOnlyOnSuccess : Obligations.OutputRegistersChangeOnlyOnSuccess := by
  intro i s t _ h
  obtain ⟨e, -, rfl⟩ | ⟨-, rfl⟩ := exec_cases h
  · exact ⟨fun hf => absurd rfl hf, fun ho => absurd rfl ho⟩
  · refine ⟨fun hf => ⟨rfl, ?_⟩, fun ho => ⟨rfl, ?_, ?_⟩⟩
    · by_contra hi
      obtain ⟨hs, hm⟩ := not_or.mp hi
      exact hf (commandEffect_fcount hs hm s)
    · exact fun hi => ho (commandEffect_olen (.inl hi) s)
    · exact fun hi => ho (commandEffect_olen (.inr hi) s)

end Sys2Proof.Machine
end

section
/-! PROOFS. The commands read the key through its keystream only, and a legal keystream reads KEYBIT(0) to KEYBIT(L-1)
only (10_state.md rule R40, 40_cipher.md rule R102). -/

namespace Sys2Proof.Machine

variable {s : State} {key' : List Word}

/-- No check looks at a key bit: they read `KEYLEN` and `KPHASE`. -/
theorem commandCheck_key (i : Instr) (s : State) (key' : List Word) :
    commandCheck i { s with key := key' } = commandCheck i s := by
  cases i <;> rfl

/-- With `1 ≤ L` the keystream reads key bits below `L` only. -/
theorem keystream_congr_key (hL : 1 ≤ s.keylen.toNat)
    (h : ∀ j, j < s.keylen.toNat → State.keyBit { s with key := key' } j = s.keyBit j) (i : Nat) :
    keystream { s with key := key' } i = keystream s i :=
  h _ (Nat.mod_lt _ hL)

/-- Two states with one keystream encipher alike (rule R103). -/
theorem xorStream_congr {s t : State} (h : ∀ i, keystream t i = keystream s i) (l : List Bool) :
    xorStream t l = xorStream s l := by
  rw [xorStream, xorStream, funext h]

/-- A command whose checks pass has the same effect under a key that agrees below `L`, but for the key itself. -/
theorem commandEffect_key_congr {i : Instr} (hc : commandCheck i s = none)
    (h : ∀ j, j < s.keylen.toNat → State.keyBit { s with key := key' } j = s.keyBit j) :
    commandEffect i { s with key := key' } = { commandEffect i s with key := key' } := by
  have keyed : ∀ olen l, cipherCheck true olen s = none → xorStream { s with key := key' } l = xorStream s l := by
    intro olen l hk
    obtain ⟨hlegal, -⟩ := cipherCheck_none hk
    exact xorStream_congr (keystream_congr_key (hlegal rfl).1 h) l
  cases i
  case xor => exact congrArg (fun t => cipherEffect s.len.toNat t { s with key := key' }) (keyed _ _ hc)
  case enc => exact congrArg (fun t => cipherEffect s.evenLen t { s with key := key' }) (keyed _ _ hc)
  case dec => exact congrArg (fun t => cipherEffect s.evenLen (subst t) { s with key := key' }) (keyed _ _ hc)
  all_goals rfl

/-- Settles O34: the checks never read the key, and a command that passes them reads it below `L` only. -/
theorem unusedKeyBitsAreIgnored : Obligations.UnusedKeyBitsAreIgnored := by
  intro i s key' hkey t h
  obtain ⟨e, hc, rfl⟩ | ⟨hc, rfl⟩ := exec_cases h
  · exact exec_of_some ((commandCheck_key i s key').trans hc)
  · rw [exec_of_none ((commandCheck_key i s key').trans hc), commandEffect_key_congr hc hkey]
    rfl

end Sys2Proof.Machine
end

section
/-! PROOFS. The invariant of the reachable states (10_state.md rules R44, R45, R49, 60_exceptions.md rules R161, R168):
what each operation of the machine does to its three parts. `congr` lemmas: a part is kept by any step that leaves the
fields it speaks of as they were. -/

namespace Sys2Proof.Machine

/-! ### A part holds again where its fields are as before -/

theorem State.Shaped.congr {s t : State} (h : s.Shaped) (hp : t.params = s.params := by rfl)
    (hk : t.key = s.key := by rfl) (hb : t.bitmem = s.bitmem := by rfl) (hx : t.pixmem = s.pixmem := by rfl)
    (hg : t.stage = s.stage := by rfl) (hf : t.present = s.present := by rfl) : t.Shaped where
  params := hp ▸ h.params
  key := by rw [hp, hk]; exact h.key
  bitmem := by rw [hp, hb]; exact h.bitmem
  pixmem := by rw [hp, hx]; exact h.pixmem
  stage := by rw [hp, hg]; exact h.stage
  present := hf ▸ h.present

theorem State.StatusOk.congr {s t : State} (h : s.StatusOk) (hi : t.inflight = s.inflight := by rfl)
    (hd : t.done = s.done := by rfl) (he : t.err = s.err := by rfl) (hc : t.errCode = s.errCode := by rfl)
    (hm : t.errCmd = s.errCmd := by rfl) (hn : t.errInfo = s.errInfo := by rfl) : t.StatusOk where
  busy := by rw [State.busy, hi, hd, he]; exact h.busy
  clear := by rw [he, hc, hm, hn]; exact h.clear
  oneOf := by rw [hd, he]; exact h.oneOf
  code := by rw [he, hc]; exact h.code

theorem State.FramesOk.congr {s t : State} (h : s.FramesOk) (hp : t.params = s.params := by rfl)
    (hf : t.present = s.present := by rfl) (hc : t.pcap = s.pcap := by rfl) : t.FramesOk where
  latched := by rw [hc, hf]; exact h.latched
  bound := by rw [hc, hp]; exact h.bound
  slots := by rw [hf, hc, hp]; exact h.slots

/-! ### Writes to the memories -/

theorem State.Shaped.writeBits {s : State} (h : s.Shaped) {base : Nat} {vs : List (Option Bool)}
    (hb : base + vs.length ≤ s.params.nb) : (writeBits base vs s).Shaped :=
  { h with bitmem := Memory.wf_store h.bitmem hb }

theorem State.Shaped.writePixels {s : State} (h : s.Shaped) {base : Nat} {vs : List (Option Pixel)}
    (hb : base + vs.length ≤ s.params.np) : (writePixels base vs s).Shaped :=
  { h with pixmem := Memory.wf_store h.pixmem hb }

theorem State.Shaped.writeStaged {s : State} (h : s.Shaped) {base : Nat} {vs : List (Option Pixel)}
    (hb : base + vs.length ≤ s.params.cmax) : (writeStaged base vs s).Shaped :=
  { h with stage := Memory.wf_store h.stage hb }

theorem State.Shaped.setOlen {s : State} (h : s.Shaped) (n : Nat) : (setOlen n s).Shaped := h.congr

theorem State.Shaped.setFcount {s : State} (h : s.Shaped) (n : Nat) : (setFcount n s).Shaped := h.congr

/-- Elements become unspecified inside their memory (rule R183). -/
theorem State.Shaped.forgetDest {s : State} (h : s.Shaped) (d : Dest) : (forgetDest d s).Shaped := by
  cases d with
  | none => exact h
  | bits base n => exact { h with bitmem := Memory.wf_forget h.bitmem base n }
  | pixels base n => exact { h with pixmem := Memory.wf_forget h.pixmem base n }

/-! ### Reset -/

/-- The power-on state of an HCB with legal parameters meets the invariant (rules R50, R181). -/
theorem powerOn_inv {p : Params} (hp : p.wf) : (State.powerOn p).Inv where
  shaped := {
    params := hp
    key := List.length_replicate
    bitmem := Memory.wf_nil p.nb
    pixmem := Memory.wf_nil p.np
    stage := Memory.wf_nil p.cmax
    present := List.Pairwise.nil }
  statusOk := {
    busy := nofun
    clear := fun _ => ⟨rfl, rfl, rfl⟩
    oneOf := nofun
    code := nofun }
  framesOk := {
    latched := ⟨fun _ => rfl, fun _ => rfl⟩
    bound := Nat.zero_le _
    slots := nofun }

theorem powerOnReset_inv {s : State} (h : s.Inv) : (powerOnReset s).Inv :=
  have hp := powerOn_inv h.shaped.params
  ⟨hp.shaped.congr, hp.statusOk.congr, hp.framesOk.congr⟩

/-- A soft reset keeps the memories, less what an abandoned command would have written (rules R182, R183). -/
theorem softReset_inv {s : State} (h : s.Inv) : (softReset s).Inv := by
  have hf := h.shaped.forgetDest (inflightDestination s)
  have hp := powerOn_inv hf.params
  exact ⟨{ hp.shaped with bitmem := hf.bitmem, pixmem := hf.pixmem, stage := hf.stage },
    hp.statusOk.congr, hp.framesOk.congr⟩

/-! ### The host's inputs -/

/-- The invariant does not speak of the host's lists and the model's own counters (log 3, 4, 5). -/
theorem State.Inv.ofLists {s : State} (h : s.Inv) (host : List HostInput) (replies : List Reply) (delay draws : Nat) :
    State.Inv { s with host := host, replies := replies, delay := delay, draws := draws } :=
  ⟨h.shaped.congr, h.statusOk.congr, h.framesOk.congr⟩

/-- The error clear leaves ERR and the error fields 0 (rule R165). -/
theorem clearError_inv {s : State} (h : s.Inv) : (clearError s).Inv where
  shaped := h.shaped.congr
  statusOk := {
    busy := fun hb => ⟨(h.statusOk.busy hb).1, rfl⟩
    clear := fun _ => ⟨rfl, rfl, rfl⟩
    oneOf := nofun
    code := nofun }
  framesOk := h.framesOk.congr

/-- DONE is cleared by the host or by an acceptance (rules R150, R155). -/
theorem State.StatusOk.clearDone {s : State} (h : s.StatusOk) : State.StatusOk { s with done := false } where
  busy := fun hb => ⟨rfl, (h.busy hb).2⟩
  clear := h.clear
  oneOf := nofun
  code := h.code

/-- Any combination of the two W1C bits keeps the invariant (rule R155). -/
theorem writeStatus_inv {s : State} (h : s.Inv) (v : Word) : (writeStatus v s).Inv := by
  have hdone : State.Inv { s with done := false } := ⟨h.shaped.congr, h.statusOk.clearDone, h.framesOk.congr⟩
  unfold writeStatus
  split <;> split
  · exact clearError_inv hdone
  · exact hdone
  · exact clearError_inv h
  · exact h

/-- A command is accepted only while ERR = 0, and DONE is 0 while it is in flight (rules R49, R150). -/
theorem acceptCommand_inv {s : State} (h : s.Inv) (w : Word) : (acceptCommand w s).Inv := by
  unfold acceptCommand
  split
  · exact h
  · rename_i he
    have hok := h.statusOk.clearDone
    exact ⟨h.shaped.congr, { hok with busy := fun _ => ⟨rfl, by simpa using he⟩ }, h.framesOk.congr⟩

/-- A register write keeps the invariant; the number of key registers stays. -/
theorem writeReg_inv {s : State} (h : s.Inv) (v : Word) (r : Reg) : (writeReg v s r).Inv := by
  cases r
  case ctrl =>
    simp only [writeReg]
    split
    · exact softReset_inv h
    · exact h
  case status => exact writeStatus_inv h v
  case cmd => exact acceptCommand_inv h v
  case key n =>
    exact ⟨{ h.shaped with key := List.length_set.trans h.shaped.key }, h.statusOk.congr, h.framesOk.congr⟩
  all_goals exact ⟨h.shaped.congr, h.statusOk.congr, h.framesOk.congr⟩

/-- A write to a place that an access can reach keeps the invariant (rules R64, R65). -/
theorem writePlace_inv {s : State} {width : Nat} {off : Offset} {place : Place} (h : s.Inv)
    (hr : resolve s.params width off = .ok place) (v : Word) : (writePlace v s place).Inv := by
  obtain ⟨-, -, hin⟩ := resolve_bounds h.shaped.params hr
  cases place with
  | reg r => exact writeReg_inv h v r
  | bitWord w =>
    exact ⟨h.shaped.writeBits (by simpa using hin), h.statusOk.congr, h.framesOk.congr⟩
  | pixel p => exact ⟨h.shaped.writePixels hin, h.statusOk.congr, h.framesOk.congr⟩
  | staged k => exact ⟨h.shaped.writeStaged hin, h.statusOk.congr, h.framesOk.congr⟩

/-- A read changes nothing but the count of free values drawn. -/
theorem afterRead_inv {s : State} (h : s.Inv) (place : Place) : (afterRead s place).Inv := by
  cases place with
  | reg r => exact h
  | bitWord w => exact h.ofLists ..
  | pixel p => exact h.ofLists ..
  | staged k => exact h.ofLists ..

theorem hostInput_inv {a : HostInput} {s t : State} (h : s.Inv) (ht : hostInput a s = .next t) : t.Inv := by
  obtain ⟨_, _, place, -, -, rfl⟩ | ⟨_, _, v, place, -, hr, rfl⟩ | ⟨-, rfl⟩ | ⟨-, rfl⟩ := hostInput_cases ht
  · exact (afterRead_inv h place).ofLists ..
  · exact (writePlace_inv h hr v).ofLists ..
  · exact powerOnReset_inv h
  · rw [waitRound_eq]
    exact h.ofLists ..

/-! ### The engine step -/

theorem ErrorCode.byte_bounds (c : ErrorCode) : 1 ≤ c.byte.toNat ∧ c.byte.toNat ≤ 8 := by
  cases c <;> decide

/-- The error entry of a command in flight, where DONE is 0 (rules R161, R163). -/
theorem raiseError_inv {s : State} (h : s.Inv) (hd : s.done = false) (w : Word) (e : CmdError) :
    (raiseError w e s).Inv where
  shaped := h.shaped.congr
  statusOk := {
    busy := nofun
    clear := nofun
    oneOf := fun hboth => Bool.false_ne_true (hd ▸ hboth.1)
    code := fun _ => e.code.byte_bounds }
  framesOk := h.framesOk.congr

/-- The completion of a command in flight, where ERR is 0 (rule R152). -/
theorem State.StatusOk.complete {s : State} (h : s.StatusOk) (he : s.err = false) : (complete s).StatusOk where
  busy := nofun
  clear := h.clear
  oneOf := fun hboth => Bool.false_ne_true (he ▸ hboth.2)
  code := h.code

/-- A result has at most as many elements as were computed. -/
theorem resultElements_length_le {α β : Type} (src : List (Option α)) (out : List β) :
    (resultElements src out).length ≤ out.length := by
  simp [resultElements]

/-- A cipher command that passes its checks writes inside BITMEM (rule R104). -/
theorem cipherEffect_shaped {s : State} {needKey : Bool} {olen : Nat} {t : List Bool} (h : s.Shaped)
    (hc : cipherCheck needKey olen s = none) (ht : t.length = olen) : (cipherEffect olen t s).Shaped := by
  obtain ⟨-, -, hdst, -⟩ := cipherCheck_none hc
  have hlen := resultElements_length_le (sourceElements s) t
  exact State.Shaped.setOlen (h.writeBits (by omega)) olen

/-- A command that passes its checks writes inside the memories and keeps their form. -/
theorem commandEffect_shaped {i : Instr} {s : State} (h : s.Shaped) (hc : commandCheck i s = none) :
    (commandEffect i s).Shaped := by
  cases i with
  | nop => exact h
  | sub => exact cipherEffect_shaped h hc (by simp [subst_length, State.evenLen])
  | xor => exact cipherEffect_shaped h hc (by simp)
  | enc => exact cipherEffect_shaped h hc (by simp [subst_length, State.evenLen])
  | dec => exact cipherEffect_shaped h hc (by simp [subst_length, State.evenLen])
  | b2p =>
    obtain ⟨-, hdst⟩ := rasterCheck_none hc
    exact State.Shaped.setOlen (h.writePixels (by simpa using hdst)) _
  | p2b =>
    obtain ⟨-, hdst⟩ := rasterCheck_none hc
    exact State.Shaped.setOlen (h.writeBits (by simpa using hdst)) _
  | split =>
    obtain ⟨hcap, -, hpad⟩ := splitCheck_none hc
    have hlen := len_le_splitCount hcap
    refine State.Shaped.setFcount (State.Shaped.setOlen (h.writePixels ?_) _) _
    rw [List.length_replicate]
    omega
  | fpush =>
    obtain ⟨-, -, -, hslot, -⟩ := fpushCheck_none hc
    rw [Nat.add_one_mul] at hslot
    have hw := h.writePixels (base := s.frameSlot s.fidx.toNat)
      (vs := readRange (fun k => s.stage.get k) 0 s.capacity) (by rw [readRange_length]; exact hslot)
    exact { hw with present := rising_insertFrame h.present }
  | merge => exact h.congr
  | fclr => exact { h with present := List.Pairwise.nil }

/-- After FPUSH's checks the latched capacity is `C`, latched now or before (rules R45, R132). -/
theorem recordFrame_pcap_toNat {s : State} (h : s.Shaped) (hc : fpushCheck s = none) (f : Nat) :
    (recordFrame f s).pcap.toNat = s.capacity := by
  obtain ⟨-, hmax, heq, -⟩ := fpushCheck_none hc
  obtain ⟨-, -, ⟨-, -, hcmax⟩, -⟩ := h.params
  rw [recordFrame_pcap]
  split
  · rw [BitVec.toNat_ofNat]
    omega
  · next hne => exact (heq.resolve_left hne).symm

/-- FPUSH's bookkeeping: every present slot has the latched capacity and lies in PIXMEM (rule R132). -/
theorem recordFrame_framesOk {s : State} (h : s.Inv) (hc : fpushCheck s = none) :
    (recordFrame s.fidx.toNat s).FramesOk := by
  have hpcap := recordFrame_pcap_toNat h.shaped hc s.fidx.toNat
  obtain ⟨hpos, hmax, heq, hslot, -⟩ := fpushCheck_none hc
  refine ⟨?_, ?_, fun f hf => ?_⟩
  · refine iff_of_false (fun h0 => ?_) (insertFrame_ne_nil _ _)
    rw [h0] at hpcap
    simp at hpcap
    omega
  · rw [hpcap]
    exact hmax
  · rw [hpcap]
    obtain rfl | hold := (mem_insertFrame s.present).mp hf
    · exact hslot
    · have hlatched : s.pcap ≠ 0#32 := fun h0 => List.ne_nil_of_mem hold (h.framesOk.latched.mp h0)
      rw [heq.resolve_left hlatched]
      exact h.framesOk.slots f hold

theorem commandEffect_framesOk {i : Instr} {s : State} (h : s.Inv) (hc : commandCheck i s = none) :
    (commandEffect i s).FramesOk := by
  cases i
  case fpush => exact (recordFrame_framesOk h hc).congr
  case fclr => exact ⟨⟨fun _ => rfl, fun _ => rfl⟩, Nat.zero_le _, nofun⟩
  all_goals exact h.framesOk.congr

theorem commandEffect_statusOk {s : State} (h : s.StatusOk) (i : Instr) : (commandEffect i s).StatusOk :=
  h.congr (commandEffect_inflight i s) (commandEffect_done i s) (commandEffect_err i s) (commandEffect_errCode i s)
    (commandEffect_errCmd i s) (commandEffect_errInfo i s)

/-- A command keeps the invariant where DONE and ERR are 0, as they are while it is in flight (rule R49). -/
theorem exec_inv {i : Instr} {s t : State} (h : s.Inv) (hd : s.done = false) (he : s.err = false)
    (ht : exec i s = .next t) : t.Inv := by
  obtain ⟨e, -, rfl⟩ | ⟨hc, rfl⟩ := exec_cases ht
  · exact raiseError_inv h hd _ e
  · exact ⟨(commandEffect_shaped h.shaped hc).congr,
      (commandEffect_statusOk h.statusOk i).complete (by simpa using he),
      (commandEffect_framesOk h hc).congr⟩

theorem engineStep_inv {w w' : Word} {s t : State} (h : s.Inv) (hw : s.inflight = some w')
    (ht : engineStep w s = .next t) : t.Inv := by
  obtain ⟨hd, he⟩ := h.statusOk.busy (by rw [State.busy, hw]; rfl)
  obtain ⟨i, -, hi⟩ | ⟨-, rfl⟩ := engineStep_cases ht
  · exact exec_inv h hd he hi
  · exact raiseError_inv h hd w _

/-! ### The obligations -/

/-- Settles O43: the reset state is the power-on state of the default parameters, which are legal (rule R7). -/
theorem resetMeetsTheInvariant : Obligations.ResetMeetsTheInvariant :=
  powerOn_inv (p := Params.default) (by decide)

/-- Settles O44: an idle step, a performed input and an engine step each keep the invariant. -/
theorem everyStepKeepsTheInvariant : Obligations.EveryStepKeepsTheInvariant := by
  intro s t h ht
  obtain ⟨-, -, rfl⟩ | ⟨a, rest, -, -, ha⟩ | ⟨w, a, rest, -, -, -, -, ha⟩ | ⟨w, hw, he⟩ := step_cases ht
  · exact h
  · exact hostInput_inv (h.ofLists rest ..) ha
  · exact hostInput_inv (h.ofLists rest ..) ha
  · exact engineStep_inv h hw he

end Sys2Proof.Machine
end

section
/-! PROOFS. What the host reads and writes in the register page (10_state.md rules R21, R24, R48): the fields of the
STATUS word, each register at its offset, and the read-only registers. -/

namespace Sys2Proof.Machine

open Sys2Proof.Machine.Spec

/-! ### The STATUS word -/

/-- Settles O46: STATUS is the concatenation of its fields, so each bit and each slice lies in one of them. -/
theorem statusWordLayout : Obligations.StatusWordLayout := by
  intro s
  refine ⟨readReg_status_getLsbD_zero s, ?done, ?err, ?low, ?errCode, ?errCmd, ?high⟩
  case done | err =>
    simp only [readReg, State.statusWord, BitVec.getLsbD_append]
    simp
  case low | errCode | errCmd | high =>
    simp only [readReg, State.statusWord, BitVec.extractLsb'_append_eq_ite]
    simp

/-! ### Reads of registers -/

/-- A register read whose turn it is answers the register's word and changes nothing in the HCB (rule R68). -/
theorem step_readReg {s : State} {r : Reg} {rest : List HostInput} {off : Offset}
    (hr : resolve s.params 4 off = .ok (.reg r)) (hh : s.host = .read 4 off :: rest) (ht : hostTurn s (.read 4 off)) :
    step s = .next { s with
      host := rest, replies := .data (readReg s r) :: s.replies, delay := delayAfter s } := by
  rw [step_performs hh ht]
  simp only [hostInput, hr]
  rfl

/-- A 16-bit field reads with zeros above it (rule R157). -/
theorem setWidth_half (x : Half) : x.setWidth 32 = 0#16 ++ x := BitVec.setWidth_eq_append (by decide)

/-- A pixel reads with zeros above it (rules R33, R65). -/
theorem setWidth_pixel (x : Pixel) : x.setWidth 32 = 0#8 ++ x := BitVec.setWidth_eq_append (by decide)

/-- The registers at fixed offsets: all but the key registers (rule R21). -/
def fixedRegisters : List Reg := registerMap.map Prod.snd

theorem key_notMem_fixedRegisters (n : Nat) : Reg.key n ∉ fixedRegisters := by
  simp [fixedRegisters, registerMap]

theorem resolve_fixed (p : Params) {r : Reg} (h : r ∈ fixedRegisters) :
    resolve p 4 (Program.offsetOf r) = .ok (.reg r) :=
  resolve_register p r fun n hn => key_notMem_fixedRegisters n (hn ▸ h)

/-- The register page lists the fixed registers, each at its offset with the word a read returns. -/
theorem registerPage_eq (s : State) :
    registerPage s = fixedRegisters.map (fun r => (Program.offsetOf r, readReg s r)) := by
  simp only [registerPage, fixedRegisters, registerMap, List.map_cons, List.map_nil, Program.offsetOf, readReg,
    setWidth_half, setWidth_pixel]
  rfl

/-- Settles O49: every offset of the page resolves to its register, and so does the offset of `KEY<n>`. -/
theorem registersAreReadAtTheirOffsets : Obligations.RegistersAreReadAtTheirOffsets := by
  intro s rest hp
  refine ⟨fun c hc hh ht => ?_, fun n hn hh ht => step_readReg (resolve_key hp hn) hh ht⟩
  rw [registerPage_eq] at hc
  obtain ⟨r, hr, rfl⟩ := List.mem_map.mp hc
  exact step_readReg (resolve_fixed s.params hr) hh ht

/-! ### Writes of read-only registers -/

/-- The read-only registers of rule R48 whose write has no effect at all. -/
def readOnlyRegisters : List Reg := [.id, .olen, .fcount, .errInfo, .paramNB, .paramNP, .paramCMAX, .paramKMAX]

theorem readOnlyRegisters_subset_fixedRegisters : readOnlyRegisters ⊆ fixedRegisters := by decide

theorem writeReg_readOnly {r : Reg} (h : r ∈ readOnlyRegisters) (v : Word) (s : State) : writeReg v s r = s := by
  simp only [readOnlyRegisters, List.mem_cons, List.not_mem_nil, or_false] at h
  rcases h with rfl | rfl | rfl | rfl | rfl | rfl | rfl | rfl <;> rfl

theorem delayAfter_of_idle {s : State} (h : s.inflight = none) : delayAfter s = s.delay := by
  rw [delayAfter, h]

/-- A register write whose turn it is is performed and answered (rule R68). -/
theorem step_writeReg {s : State} {r : Reg} {v : Word} {rest : List HostInput} {off : Offset}
    (hr : resolve s.params 4 off = .ok (.reg r)) (hh : s.host = .write 4 off v :: rest)
    (ht : hostTurn s (.write 4 off v)) :
    step s = .next (reply .written (writeReg v { s with host := rest, delay := delayAfter s } r)) := by
  rw [step_performs hh ht]
  simp only [hostInput, hr]
  rfl

/-- Settles O51: the write resolves to its register, where it is ignored. -/
theorem readOnlyRegistersIgnoreWrites : Obligations.ReadOnlyRegistersIgnoreWrites := by
  intro s r v rest hr hi hh
  have hplace := resolve_fixed s.params (readOnlyRegisters_subset_fixedRegisters hr)
  rw [step_writeReg hplace hh (.inl hi), writeReg_readOnly hr, delayAfter_of_idle hi]
  rfl

end Sys2Proof.Machine
end

section
/-! PROOFS. Host accesses and the stall rule (20_memory.md rules R60 to R62, R67, R68, R71): which offsets resolve and
to what, what a performed access does, which accesses are exempt, and what happens to one that is not. -/

namespace Sys2Proof.Machine

open Sys2Proof.Machine.Spec

/-! ### The address map -/

theorem resolve_eq_ok_iff {p : Params} {width : Nat} {off : Offset} {place : Place} :
    resolve p width off = .ok place ↔ width = 4 ∧ off.toNat % 4 = 0 ∧ locate p off.toNat = some place := by
  unfold resolve
  by_cases hw : width = 4
  · by_cases ha : off.toNat % 4 = 0
    · cases locate p off.toNat <;> simp [hw, ha]
    · simp [hw, ha]
  · simp [hw]

theorem mem_registerMap_of_lookup {off : Nat} {r : Reg} (h : registerMap.lookup off = some r) :
    (off, r) ∈ registerMap := by
  obtain ⟨l₁, l₂, hm, -⟩ := List.lookup_eq_some_iff.mp h
  simp [hm]

/-- The fixed registers lie below 0x54 (rule R21). -/
theorem lookup_registerMap_isSome_iff {off : Nat} (ha : off % 4 = 0) :
    (registerMap.lookup off).isSome = true ↔ off < 0x54 := by
  have below : ∀ c ∈ registerMap, c.1 < 0x54 := by decide
  have listed : ∀ o < 0x54, o % 4 = 0 → (registerMap.lookup o).isSome = true := by decide
  refine ⟨fun h => ?_, fun h => listed off h ha⟩
  obtain ⟨r, hr⟩ := Option.isSome_iff_exists.mp h
  exact below _ (mem_registerMap_of_lookup hr)

theorem registerAt_isSome_iff {p : Params} {off : Nat} (ha : off % 4 = 0) :
    (registerAt p off).isSome = true ↔ off < 0x54 ∨ (0x100 ≤ off ∧ off < 0x100 + 4 * (p.kmax / 32)) := by
  unfold registerAt
  split
  next hkey => simp [hkey]
  next hkey => rw [lookup_registerMap_isSome_iff ha]; simp [hkey]

/-- An aligned offset maps an element exactly when it lies in one of the ranges of rule R60. -/
theorem locate_isSome_iff {p : Params} (hp : p.wf) {off : Nat} (ha : off % 4 = 0) :
    (locate p off).isSome = true ↔ mapped p off := by
  obtain ⟨⟨-, -, hnb⟩, ⟨-, hnp⟩, -, -, -, hkmax⟩ := hp
  unfold locate mapped
  by_cases hpage : off < 0x1000
  · rw [if_pos hpage, Option.isSome_map, registerAt_isSome_iff ha]
    omega
  · rw [if_neg hpage]
    split_ifs <;> simp only [Option.isSome_some, Option.isSome_none, Bool.false_eq_true, true_iff, false_iff] <;> omega

/-- An access reaches an element exactly when it is 32 bits wide, aligned and mapped (rules R62, R67). -/
theorem exists_resolve_iff {p : Params} (hp : p.wf) {width : Nat} {off : Offset} :
    (∃ place, resolve p width off = .ok place) ↔ width = 4 ∧ off.toNat % 4 = 0 ∧ mapped p off.toNat := by
  simp only [resolve_eq_ok_iff, exists_and_left]
  refine and_congr_right fun _ => and_congr_right fun ha => ?_
  rw [← locate_isSome_iff hp ha, Option.isSome_iff_exists]

/-- A fixed register is reached at its own offset and at no other (rule R21). -/
theorem resolve_eq_fixed_iff {p : Params} {width : Nat} {off : Offset} {r : Reg} (hr : r ∈ fixedRegisters) :
    resolve p width off = .ok (.reg r) ↔ width = 4 ∧ off = Program.offsetOf r := by
  refine ⟨fun h => ?_, fun ⟨hw, ho⟩ => hw ▸ ho ▸ resolve_fixed p hr⟩
  have offsets : ∀ c ∈ registerMap, c.1 = (Program.offsetOf c.2).toNat := by decide
  obtain ⟨hw, -, hl⟩ := resolve_eq_ok_iff.mp h
  have hat : registerAt p off.toNat = some r := by
    unfold locate at hl
    repeat' split at hl
    all_goals simp at hl
    exact hl
  unfold registerAt at hat
  split at hat
  · obtain rfl := Option.some.inj hat
    exact absurd hr (key_notMem_fixedRegisters _)
  · exact ⟨hw, BitVec.eq_of_toNat_eq (offsets _ (mem_registerMap_of_lookup hat))⟩

/-! ### What a performed access does -/

section
variable {s : State} {width : Nat} {off : Offset} {v : Word} {place : Place} {e : Fault} {rest : List HostInput}

/-- A read whose turn it is answers the word of its element and changes nothing in the HCB (rule R68). -/
theorem step_readPlace (hr : resolve s.params width off = .ok place) (hh : s.host = .read width off :: rest)
    (ht : hostTurn s (.read width off)) :
    step s = .next { s with
      host := rest, replies := .data (readPlace s place) :: s.replies, delay := delayAfter s,
      draws := (afterRead s place).draws } := by
  rw [step_performs hh ht]
  simp only [hostInput, hr]
  cases place with
  | reg r => cases r <;> rfl
  | bitWord | pixel | staged => rfl

/-- A write whose turn it is is performed at its element and answered (rule R68). -/
theorem step_writePlace (hr : resolve s.params width off = .ok place) (hh : s.host = .write width off v :: rest)
    (ht : hostTurn s (.write width off v)) :
    step s = .next (reply .written (writePlace v { s with host := rest, delay := delayAfter s } place)) := by
  rw [step_performs hh ht]
  simp only [hostInput, hr]
  rfl

/-- A read that reaches no element is a bus error (rules R62, R67). -/
theorem step_read_fault (hr : resolve s.params width off = .error e) (hh : s.host = .read width off :: rest)
    (ht : hostTurn s (.read width off)) : step s = .fault e := by
  rw [step_performs hh ht]
  simp only [hostInput, hr]

/-- A write that reaches no element is a bus error (rules R62, R67). -/
theorem step_write_fault (hr : resolve s.params width off = .error e) (hh : s.host = .write width off v :: rest)
    (ht : hostTurn s (.write width off v)) : step s = .fault e := by
  rw [step_performs hh ht]
  simp only [hostInput, hr]

end

/-- Settles O52: the access of a read that is answered resolved to some element, and reading it draws at most a free
value. -/
theorem readsHaveNoSideEffects : Obligations.ReadsHaveNoSideEffects := by
  intro s t width off rest ht hh hs
  cases hr : resolve s.params width off with
  | ok place =>
    rw [step_readPlace hr hh ht] at hs
    obtain rfl := Host.Outcome.next.inj hs
    exact ⟨readPlace s place, rfl⟩
  | error e =>
    rw [step_read_fault hr hh ht] at hs
    cases hs

/-- Settles O53: the access resolves exactly when it is 32 bits wide, aligned and mapped, and its answer or its bus
error follows from that. -/
theorem accessesAreAnsweredExactlyWhenMapped : Obligations.AccessesAreAnsweredExactlyWhenMapped := by
  intro s width off v rest a hp ht ha hh
  rw [← exists_resolve_iff hp]
  cases hr : resolve s.params width off with
  | ok place =>
    refine ⟨fun _ => ?_, fun hno => absurd ⟨place, rfl⟩ hno⟩
    rcases ha with rfl | rfl
    · exact ⟨_, step_readPlace hr hh ht⟩
    · exact ⟨_, step_writePlace hr hh ht⟩
  | error e =>
    refine ⟨fun ⟨_, hok⟩ => (nomatch hok), fun _ => ?_⟩
    rcases ha with rfl | rfl
    · exact ⟨e, step_read_fault hr hh ht⟩
    · exact ⟨e, step_write_fault hr hh ht⟩

/-! ### The exempt accesses -/

/-- The registers of rule R71 whose read is exempt. -/
def exemptReads : List Reg := [.id, .ctrl, .status, .irqEn, .paramNB, .paramNP, .paramCMAX, .paramKMAX]

/-- The registers of rule R71 whose write is exempt. -/
def exemptWrites : List Reg := [.ctrl, .status, .irqEn]

theorem exemptRead_iff (r : Reg) : exemptRead r = true ↔ r ∈ exemptReads := by
  cases r <;> simp [exemptRead, exemptReads]

theorem exemptWrite_iff (r : Reg) : exemptWrite r = true ↔ r ∈ exemptWrites := by
  cases r <;> simp [exemptWrite, exemptWrites]

theorem exemptReads_subset_fixedRegisters : exemptReads ⊆ fixedRegisters := by decide

theorem exemptWrites_subset_fixedRegisters : exemptWrites ⊆ fixedRegisters := by decide

/-- An access reaches a register among some fixed ones exactly when it is 32 bits wide at one of their offsets. -/
theorem exists_resolve_mem_iff {p : Params} {width : Nat} {off : Offset} {rs : List Reg} (h : rs ⊆ fixedRegisters) :
    (∃ r ∈ rs, resolve p width off = .ok (.reg r)) ↔ width = 4 ∧ off ∈ rs.map Program.offsetOf := by
  rw [List.mem_map]
  constructor
  · rintro ⟨r, hr, hres⟩
    obtain ⟨hw, ho⟩ := (resolve_eq_fixed_iff (h hr)).mp hres
    exact ⟨hw, r, hr, ho.symm⟩
  · rintro ⟨hw, r, hr, ho⟩
    exact ⟨r, hr, (resolve_eq_fixed_iff (h hr)).mpr ⟨hw, ho.symm⟩⟩

theorem exempt_read_iff {p : Params} {width : Nat} {off : Offset} :
    exempt p (.read width off) = true ↔ width = 4 ∧ off ∈ exemptReads.map Program.offsetOf := by
  rw [← exists_resolve_mem_iff (p := p) exemptReads_subset_fixedRegisters]
  simp only [exempt, ← exemptRead_iff]
  rcases resolve p width off with e | (r | w | q | k) <;> simp

theorem exempt_write_iff {p : Params} {width : Nat} {off : Offset} {v : Word} :
    exempt p (.write width off v) = true ↔ width = 4 ∧ off ∈ exemptWrites.map Program.offsetOf := by
  rw [← exists_resolve_mem_iff (p := p) exemptWrites_subset_fixedRegisters]
  simp only [exempt, ← exemptWrite_iff]
  rcases resolve p width off with e | (r | w | q | k) <;> simp

/-- Settles O11: an exempt access reaches one of the fixed registers of rule R71, and each stands at one offset. -/
theorem exemptAccessesAreTheListedOnes : Obligations.ExemptAccessesAreTheListedOnes := by
  intro p a
  cases a with
  | read width off => simp [exempt_read_iff, exemptReads, Program.offsetOf]
  | write width off v => simp [exempt_write_iff, exemptWrites, Program.offsetOf]
  | powerOn => simp [exempt]
  | wait => simp [exempt]

/-! ### The held accesses -/

/-- A command ends and leaves the host's lists alone (rule R151). -/
theorem exec_ends (i : Instr) (s : State) :
    ∃ t, exec i s = .next t ∧ t.inflight = none ∧ t.host = s.host ∧ t.replies = s.replies := by
  rw [exec_eq]
  cases commandCheck i s <;> exact ⟨_, rfl, by simp⟩

/-- An engine step ends the word in flight, legal or not, and leaves the host's lists alone (rule R151). -/
theorem engineStep_ends (w : Word) (s : State) :
    ∃ t, engineStep w s = .next t ∧ t.inflight = none ∧ t.host = s.host ∧ t.replies = s.replies := by
  unfold engineStep
  split
  next i _ => exact exec_ends i s
  next => exact ⟨_, rfl, by simp⟩

/-- Settles O12: the step is the engine's, which ends the word in flight. -/
theorem heldAccessWaitsForTheCommand : Obligations.HeldAccessWaitsForTheCommand := by
  intro s w a rest hw hh hx
  have turn : engineTurn s := by
    intro b l hb
    obtain ⟨rfl, -⟩ := List.cons.inj (hh.symm.trans hb)
    exact .inl hx
  rw [step_engine hw turn, ← hh]
  exact engineStep_ends w s

end Sys2Proof.Machine
end

section
/-! PROOFS. The words of the memories and of the key on the bus (20_memory.md rules R63 to R66): what one write stores
and what one read answers. -/

namespace Sys2Proof.Machine

open Sys2Proof.Machine.Spec

/-! ### Stores of a range, of one element, of a word -/

section
variable {α : Type} {m : Memory α} {base a : Nat}

/-- A store leaves every element outside its range alone. -/
theorem Memory.get_store_outside {vs : List (Option α)} (h : a < base ∨ base + vs.length ≤ a) :
    (m.store base vs).get a = m.get a := by
  rw [Memory.get_store, if_neg (by omega)]

theorem Memory.get_store_singleton_self (x : Option α) : (m.store a [x]).get a = x := by
  simp [Memory.get_store]

theorem Memory.get_store_singleton_of_ne (x : Option α) (h : a ≠ base) : (m.store base [x]).get a = m.get a :=
  Memory.get_store_outside (by simp only [List.length_singleton]; omega)

end

/-- Bit `k` of a stored word stands at `BIT(base + k)` (rule R64). -/
theorem get_store_unpackWord (m : Memory Bool) (base : Nat) (v : Word) {k : Nat} (hk : k < 32) :
    (m.store base ((unpackWord v).map some)).get (base + k) = some (v.getLsbD (lanebit k)) := by
  rw [Memory.get_store, if_pos (by simpa using hk), Nat.add_sub_cancel_left, List.getElem?_map,
    unpackWord_getElem? v hk]
  rfl

/-- Byte lane `k`, most significant bit first, is the packed bits from `8k` on (rules R63, R64). -/
theorem getLsbD_byteLane (v : Word) {k j : Nat} (hj : j < 8) :
    (byteLane v k).getLsbD (7 - j) = v.getLsbD (lanebit (8 * k + j)) := by
  have hlane : lanebit (8 * k + j) = 8 * k + (7 - j) := by unfold lanebit; omega
  rw [byteLane, BitVec.getLsbD_extractLsb', hlane]
  simp only [show 7 - j < 8 by omega, decide_true, Bool.true_and]

/-! ### The obligations -/

section
variable {s : State} {off : Offset} {v : Word} {place : Place} {rest : List HostInput}

/-- With no command in flight a read changes the host's lists and the count of free values at most. -/
theorem step_readPlace_idle (hi : s.inflight = none) (hr : resolve s.params 4 off = .ok place)
    (hh : s.host = .read 4 off :: rest) :
    step s = .next { s with
      host := rest, replies := .data (readPlace s place) :: s.replies, draws := (afterRead s place).draws } := by
  rw [step_readPlace hr hh (.inl hi), delayAfter_of_idle hi]

/-- With no command in flight a write is performed at its element and answered. -/
theorem step_writePlace_idle (hi : s.inflight = none) (hr : resolve s.params 4 off = .ok place)
    (hh : s.host = .write 4 off v :: rest) :
    step s = .next (reply .written (writePlace v { s with host := rest } place)) := by
  rw [step_writePlace hr hh (.inl hi), delayAfter_of_idle hi]

end

/-- Settles O54: a write stores the unpacked word, a read packs the bits of the same range. -/
theorem bitmemWordPacking : Obligations.BitmemWordPacking := by
  intro s w v hi hp hw
  have hplace := resolve_bitWord hp hw
  refine ⟨fun rest hh => ?write, fun rest hh => ?read⟩
  case write =>
    refine ⟨s.bitmem.store (32 * w) ((unpackWord v).map some), step_writePlace_idle hi hplace hh, ?_, ?_⟩
    · exact fun k hk => get_store_unpackWord s.bitmem (32 * w) v hk
    · exact fun a ha => Memory.get_store_outside (by rwa [List.length_map, unpackWord_length])
  case read =>
    exact ⟨readPlace s (.bitWord w), step_readPlace_idle hi hplace hh,
      fun k hk => getLsbD_packWord (fun k => s.bit (32 * w + k)) hk⟩

/-- Settles O55: bit `8k + j` of the word stands in byte lane `k`, the most significant first. -/
theorem bytesAreLoadedMostSignificantBitFirst : Obligations.BytesAreLoadedMostSignificantBitFirst := by
  intro s w v rest hi hp hw hh
  obtain ⟨hwrite, -⟩ := bitmemWordPacking s w v hi hp hw
  obtain ⟨m, hstep, hin, -⟩ := hwrite rest hh
  refine ⟨_, hstep, fun k j hk hj => ?_⟩
  rw [Nat.add_assoc, getLsbD_byteLane v hj]
  exact hin (8 * k + j) (by omega)

/-- Settles O56: a write stores one pixel, a read answers it with zeros above. -/
theorem pixelWordFormat : Obligations.PixelWordFormat := by
  intro s p v rest hi hp
  refine ⟨fun hin hh => ?writePixel, fun hin hh => ?readPixel, fun hin hh => ?writeStage, fun hin hh => ?readStage⟩
  case writePixel =>
    exact ⟨s.pixmem.store p [some (v.extractLsb' 0 24)], step_writePlace_idle hi (resolve_pixel hp hin) hh,
      Memory.get_store_singleton_self _, fun q hq => Memory.get_store_singleton_of_ne _ hq⟩
  case readPixel =>
    rw [← setWidth_pixel]
    exact step_readPlace_idle hi (resolve_pixel hp hin) hh
  case writeStage =>
    exact ⟨s.stage.store p [some (v.extractLsb' 0 24)], step_writePlace_idle hi (resolve_staged hp hin) hh,
      Memory.get_store_singleton_self _, fun q hq => Memory.get_store_singleton_of_ne _ hq⟩
  case readStage =>
    rw [← setWidth_pixel]
    exact step_readPlace_idle hi (resolve_staged hp hin) hh

/-- Settles O57: key bit `32n + k` is bit `lanebit k` of key register `n`. -/
theorem keyWordPacking : Obligations.KeyWordPacking := by
  intro s n k hk
  have hdiv : (32 * n + k) / 32 = n := by omega
  have hmod : (32 * n + k) % 32 = k := by omega
  rw [State.keyBit, hdiv, hmod]
  rfl

end Sys2Proof.Machine
end

section
/-! PROOFS. The elements a command writes (20_memory.md rule R69): a command that passes its checks stores one range, or
none, and the range is the one its registers name. -/

namespace Sys2Proof.Machine

open Sys2Proof.Machine.Spec

variable {i : Instr} {s : State} {a : Nat}

theorem evenLen_le (s : State) : s.evenLen ≤ s.len.toNat := by
  unfold State.evenLen
  omega

/-- A length of at most `LEN` elements is exact in `OLEN` (rule R11). -/
theorem setOlen_olen_toNat {n : Nat} (h : n ≤ s.len.toNat) (u : State) : (setOlen n u).olen.toNat = n := by
  have := s.len.isLt
  rw [setOlen_olen, BitVec.toNat_ofNat]
  omega

/-- A cipher command stores its bits in `[DST, DST + OLEN)` only. -/
theorem cipherEffect_get_bitmem {olen : Nat} {t : List Bool} (ht : t.length = olen) (hn : olen ≤ s.len.toNat)
    (ha : a < s.dst.toNat ∨ s.dst.toNat + (cipherEffect olen t s).olen.toNat ≤ a) :
    (cipherEffect olen t s).bitmem.get a = s.bitmem.get a := by
  rw [setOlen_olen_toNat hn] at ha
  have hlen := resultElements_length_le (sourceElements s) t
  exact Memory.get_store_outside (by omega)

/-- No command writes a bit outside its destination range (rule R69). -/
theorem commandEffect_get_bitmem (ha : ¬ destinationBit i s (complete (commandEffect i s)) a) :
    (commandEffect i s).bitmem.get a = s.bitmem.get a := by
  have outside (hw : writesBitmem i = true) :
      a < s.dst.toNat ∨ s.dst.toNat + (commandEffect i s).olen.toNat ≤ a := by
    by_contra h
    exact ha ⟨rfl, hw, by omega, by rw [complete_olen]; omega⟩
  have heven := evenLen_le s
  cases i
  case sub => exact cipherEffect_get_bitmem (by simp [subst_length, State.evenLen]) heven (outside rfl)
  case xor => exact cipherEffect_get_bitmem (by simp) le_rfl (outside rfl)
  case enc => exact cipherEffect_get_bitmem (by simp [subst_length, State.evenLen]) heven (outside rfl)
  case dec => exact cipherEffect_get_bitmem (by simp [subst_length, State.evenLen]) heven (outside rfl)
  case p2b =>
    have hout := outside rfl
    rw [commandEffect, setOlen_olen_toNat le_rfl] at hout
    exact Memory.get_store_outside (by simpa using hout)
  all_goals rfl

/-- No command that passes its checks writes a pixel outside its destination range (rule R69). -/
theorem commandEffect_get_pixmem (hp : s.params.wf) (hc : commandCheck i s = none)
    (ha : ¬ destinationPixel i s (complete (commandEffect i s)) a) :
    (commandEffect i s).pixmem.get a = s.pixmem.get a := by
  cases i
  case b2p =>
    have hout : ¬ (s.dst.toNat ≤ a ∧ a < s.dst.toNat + s.len.toNat) := fun h => ha ⟨rfl, .inl ⟨rfl, h⟩⟩
    refine Memory.get_store_outside ?_
    rw [List.length_map, readRange_length]
    omega
  case split =>
    obtain ⟨hcap, -, hfit⟩ := splitCheck_none hc
    have hlen := len_le_splitCount hcap
    obtain ⟨-, ⟨-, hnp⟩, -⟩ := hp
    have holen : (commandEffect .split s).olen.toNat = s.splitCount * s.capacity := by
      rw [commandEffect, setFcount_olen, setOlen_olen, BitVec.toNat_ofNat]
      omega
    have hout : ¬ (s.len.toNat ≤ a ∧ a < (commandEffect .split s).olen.toNat) :=
      fun h => ha ⟨rfl, .inr (.inl ⟨rfl, h⟩)⟩
    refine Memory.get_store_outside ?_
    rw [List.length_replicate]
    omega
  case fpush =>
    have hout : ¬ (s.frameSlot s.fidx.toNat ≤ a ∧ a < s.frameSlot s.fidx.toNat + s.capacity) :=
      fun h => ha ⟨rfl, .inr (.inr ⟨rfl, h⟩)⟩
    refine Memory.get_store_outside ?_
    rw [readRange_length]
    omega
  all_goals rfl

/-- Settles O32: an error changes no memory, and a completed command stores its destination range at most. -/
theorem commandsWriteOnlyTheirDestination : Obligations.CommandsWriteOnlyTheirDestination := by
  intro i s t hp _ h
  obtain ⟨e, -, rfl⟩ | ⟨hc, rfl⟩ := exec_cases h
  · exact ⟨fun _ _ => rfl, fun _ _ => rfl⟩
  · exact ⟨fun _ ha => commandEffect_get_bitmem ha, fun _ ha => commandEffect_get_pixmem hp hc ha⟩

end Sys2Proof.Machine
end

section
/-! PROOFS. Decoding against encoding (30_encoding.md rules R80 to R84): a word decodes to a command exactly when it is
the command's word, and every other word is illegal. -/

namespace Sys2Proof

@[simp] theorem decode_encode (i : Instr) : decode (encode i) = .ok i := by simp [decode]

/-- A word that decodes has `RSV = 0` and the operation code of its command. -/
theorem eq_encode_of_decode {w : Word} {i : Instr} (h : decode w = .ok i) : w = encode i := by
  unfold decode at h
  split at h
  next => cases h
  next hrsv =>
    split at h
    next j hj =>
      obtain rfl := Except.ok.inj h
      exact eq_encode_of_fields (not_not.mp hrsv) ((commandOf_eq_some _ _).mp hj)
    next => cases h

theorem decode_eq_ok_iff {w : Word} {i : Instr} : decode w = .ok i ↔ w = encode i :=
  ⟨eq_encode_of_decode, fun h => h ▸ decode_encode i⟩

/-- The illegal words are those that are no command's word (rule R84). -/
theorem exists_decode_error_iff {w : Word} : (∃ e, decode w = .error e) ↔ ∀ i, w ≠ encode i := by
  simp only [ne_eq, ← decode_eq_ok_iff]
  cases decode w <;> simp

/-- What holds of every command holds of each of the eleven (rule R82). -/
theorem forall_instr_iff {P : Instr → Prop} : (∀ i, P i) ↔
    P .nop ∧ P .sub ∧ P .xor ∧ P .enc ∧ P .dec ∧ P .b2p ∧ P .p2b ∧ P .split ∧ P .fpush ∧ P .merge ∧ P .fclr := by
  refine ⟨fun h => ⟨h _, h _, h _, h _, h _, h _, h _, h _, h _, h _, h _⟩, ?_⟩
  rintro ⟨_, _, _, _, _, _, _, _, _, _, _⟩ i
  cases i <;> assumption

/-- The numbers that are no operation code are those of the reserved ranges (rules R82, R84). -/
theorem forall_ne_opcode_iff (n : Nat) : (∀ i, n ≠ (opcode i).toNat) ↔
    256 ≤ n ∨ (0x05 ≤ n ∧ n ≤ 0x0F) ∨ (0x12 ≤ n ∧ n ≤ 0x1F) ∨ (0x24 ≤ n ∧ n ≤ 0xFF) := by
  rw [forall_instr_iff]
  simp only [opcode, BitVec.toNat_ofNat]
  omega

/-- Settles O2: the fields of a word that decodes are those of its command's word, and they determine it. -/
theorem decodeAnswersExactlyTheEncodedWord : Obligations.DecodeAnswersExactlyTheEncodedWord :=
  fun _ _ => decode_eq_ok_iff

/-- Settles O3: an illegal word is no command's word, so its number is none of the eleven operation codes. -/
theorem illegalWordsAreTheReservedOnes : Obligations.IllegalWordsAreTheReservedOnes := by
  intro w
  rw [exists_decode_error_iff, ← forall_ne_opcode_iff]
  simp only [ne_eq, ← BitVec.toNat_inj, encode_toNat]

/-- Settles O1: each word of the map is its command's word. -/
theorem decodeReadsTheOpcodeMap : Obligations.DecodeReadsTheOpcodeMap :=
  ⟨decode_encode .nop, decode_encode .sub, decode_encode .xor, decode_encode .enc, decode_encode .dec,
    decode_encode .b2p, decode_encode .p2b, decode_encode .split, decode_encode .fpush, decode_encode .merge,
    decode_encode .fclr⟩

end Sys2Proof
end

section
/-! PROOFS. WAIT (30_encoding.md rule R86): what one round does, the rounds that pass before the engine moves, and the
last round, which finds BUSY = 0. -/

namespace Sys2Proof.Machine

open Sys2Proof.Machine.Spec

section
variable {s : State} {w : Word} {rest : List HostInput}

/-- A run goes on from the state its first `j` steps answer. -/
theorem runSteps_add {j : Nat} {t : State} (k : Nat) (h : runSteps j s = .next t) :
    runSteps (j + k) s = runSteps k t := by
  induction j generalizing s with
  | zero =>
    obtain rfl := Host.Outcome.next.inj h
    rw [Nat.zero_add]
  | succ j ih =>
    cases hs : step s with
    | next u =>
      rw [runSteps_succ hs] at h
      rw [Nat.succ_add, runSteps_succ hs, ih h]
    | fault | refused => simp [runSteps, hs] at h

/-- A round of WAIT whose turn it is answers STATUS, and the WAIT stays at the head exactly while BUSY = 1. -/
theorem step_wait (hh : s.host = .wait :: rest) (ht : hostTurn s .wait) :
    step s = .next { s with
      host := if s.inflight = none then rest else .wait :: rest
      replies := .data (readReg s .status) :: s.replies
      delay := delayAfter s } := by
  have head : (if s.busy = true then [HostInput.wait] else []) ++ rest =
      if s.inflight = none then rest else .wait :: rest := by
    rw [State.busy]
    cases s.inflight <;> rfl
  rw [step_performs hh ht, hostInput, waitRound_eq, ← head]
  rfl

theorem delayAfter_of_busy (hw : s.inflight = some w) : delayAfter s = s.delay - 1 := by
  rw [delayAfter, hw]

/-- While a command is in flight a due round answers STATUS and leaves the WAIT at the head. -/
theorem step_wait_of_busy (hw : s.inflight = some w) (hh : s.host = .wait :: rest) (hd : 0 < s.delay) :
    step s = .next { s with replies := .data (readReg s .status) :: s.replies, delay := s.delay - 1 } := by
  rw [step_wait hh (.inr ⟨rfl, hd⟩), if_neg (by simp [hw]), ← hh, delayAfter_of_busy hw]

/-- The state after `n` rounds of WAIT that found BUSY = 1: each answered STATUS and took one from the model's
`delay`. -/
def afterBusyRounds (n : Nat) (s : State) : State :=
  { s with replies := List.replicate n (.data (readReg s .status)) ++ s.replies, delay := s.delay - n }

/-- While a command is in flight, WAIT makes its rounds as long as exempt accesses are due before the engine step. -/
theorem runSteps_afterBusyRounds (hw : s.inflight = some w) (hh : s.host = .wait :: rest) {n : Nat}
    (hn : n ≤ s.delay) : runSteps n s = .next (afterBusyRounds n s) := by
  induction n with
  | zero => rfl
  | succ n ih =>
    have round : step (afterBusyRounds n s) = .next (afterBusyRounds (n + 1) s) :=
      step_wait_of_busy hw hh (Nat.sub_pos_of_lt hn)
    rw [runSteps_add 1 (ih (Nat.le_of_succ_le hn)), runSteps_succ round, runSteps_zero]

/-- The engine moves once the due rounds are made, and the round after it finds no command in flight. -/
theorem runSteps_wait_of_busy (hw : s.inflight = some w) (hh : s.host = .wait :: rest) :
    ∃ t u, runSteps (s.delay + 2) s = .next t ∧ u.inflight = none ∧ t.inflight = none ∧ t.host = rest ∧
      t.replies = .data (readReg u .status) ::
        (List.replicate s.delay (.data (readReg s .status)) ++ s.replies) := by
  have rounds := runSteps_afterBusyRounds hw hh le_rfl
  have turn : engineTurn (afterBusyRounds s.delay s) := fun _ _ _ => .inr (Nat.sub_self s.delay)
  obtain ⟨u, hu, hidle, hhost, hreplies⟩ := engineStep_ends w (afterBusyRounds s.delay s)
  have engine : step (afterBusyRounds s.delay s) = .next u :=
    (step_engine (s := afterBusyRounds s.delay s) hw turn).trans hu
  have last := step_wait (hhost.trans hh) (.inl hidle)
  have run := (runSteps_add 2 rounds).trans ((runSteps_succ engine).trans (runSteps_succ last))
  exact ⟨_, u, run, hidle, hidle, if_pos hidle, congrArg _ hreplies⟩

end

/-- Settles O14: an idle block ends WAIT in one round; a command in flight lets it make `delay` rounds, then ends, and
one more round reads BUSY = 0. -/
theorem waitReadsStatusUntilBusyReadsZero : Obligations.WaitReadsStatusUntilBusyReadsZero := by
  intro s rest hh
  refine ⟨step_wait hh, ?_⟩
  have bit_zero {u : State} (hu : u.inflight = none) : (readReg u .status).getLsbD 0 = false := by
    rw [readReg_status_getLsbD_zero, State.busy, hu, Option.isSome_none]
  cases hw : s.inflight with
  | none =>
    refine ⟨1, 0, _, _, runSteps_succ (step_wait hh (.inl hw)), hw, if_pos hw, rfl, bit_zero hw, ?_⟩
    exact fun hn => absurd hn (lt_irrefl 0)
  | some w =>
    obtain ⟨t, u, hrun, hu, hidle, hhost, hreplies⟩ := runSteps_wait_of_busy hw hh
    refine ⟨_, _, t, _, hrun, hidle, hhost, hreplies, bit_zero hu, fun _ => ?_⟩
    rw [readReg_status_getLsbD_zero, State.busy, hw, Option.isSome_some]

end Sys2Proof.Machine
end

section
/-! PROOFS. The cipher commands SUB, XOR, ENC and DEC (40_cipher.md): what the substitution does to a sequence, the
errors of rule R104 in their order, and the bits each command stores. -/

namespace Sys2Proof.Machine

open Sys2Proof.Machine.Spec

/-! ### The substitution (rules R100, R101, R109) -/

/-- The substitution keeps the whole pairs and complements each of their bits. -/
theorem subst_eq_map_take (l : List Bool) : subst l = (l.take (2 * (l.length / 2))).map (fun b => !b) := by
  fun_induction subst l with
  | case1 a b rest ih =>
    have hlen : 2 * ((a :: b :: rest).length / 2) = 2 * (rest.length / 2) + 2 := by
      simp only [List.length_cons]; omega
    rw [hlen, ih]
    rfl
  | case2 => simp
  | case3 => rfl

/-- Settles O18: bit `i` of the kept pairs is the complement of bit `i` of the input. -/
theorem substComplementsEveryKeptBit : Obligations.SubstComplementsEveryKeptBit := by
  intro l i hi
  rw [subst_eq_map_take, List.getElem?_map, List.getElem?_take_of_lt hi]

/-- Each row of the table of rule R100 is a row of `lut`. -/
theorem eq_lut_of_mem_table {a b x y : Bool}
    (h : (a, b, x, y) ∈ [(false, false, true, true), (false, true, true, false), (true, false, false, true),
      (true, true, false, false)]) : (x, y) = lut a b := by
  revert a b x y
  decide

/-- Settles O17: a pair inside the input lies in the kept part, where both of its bits are complemented. -/
theorem substMapsPairsAndDropsTheDanglingBit : Obligations.SubstMapsPairsAndDropsTheDanglingBit := by
  refine fun l => ⟨subst_length l, fun j a b x y hrow ha hb => ?_⟩
  obtain ⟨rfl, rfl⟩ := Prod.mk.inj (eq_lut_of_mem_table hrow)
  obtain ⟨hlt, -⟩ := List.getElem?_eq_some_iff.mp hb
  constructor
  · rw [substComplementsEveryKeptBit l (2 * j) (by omega), ha]
    rfl
  · rw [substComplementsEveryKeptBit l (2 * j + 1) (by omega), hb]
    rfl

/-! ### The sequences of a command, given by their bits -/

/-- The table complements both bits of a pair, so bit `k` of the substituted sequence needs bit `k` alone. -/
theorem substBit_eq (f : Nat → Bool) : substBit f = fun k => !f k := by
  funext k
  unfold substBit
  split <;> rfl

theorem subst_readRange (f : Nat → Bool) (n : Nat) :
    subst (readRange f 0 n) = readRange (substBit f) 0 (2 * (n / 2)) := by
  rw [subst_eq_map_take, readRange_length, substBit_eq]
  refine List.ext_getElem (by simp only [List.length_map, List.length_take, readRange_length]; omega) fun i _ _ => ?_
  simp only [List.getElem_map, List.getElem_take, readRange_getElem]

theorem xorStream_readRange (s : State) (f : Nat → Bool) (n : Nat) :
    xorStream s (readRange f 0 n) = readRange (fun k => f k ^^ keystreamBit s k) 0 n := by
  refine List.ext_getElem? fun i => ?_
  rw [xorStream_get, readRange_getElem?, readRange_getElem?]
  split
  · rw [Nat.zero_add]
    rfl
  · rfl

theorem sourceBits_eq_readRange (s : State) : sourceBits s = readRange (sourceBit s) 0 s.len.toNat := by
  refine List.ext_getElem (by simp) fun i _ _ => ?_
  simp only [sourceBits, sourceBit, readRange_getElem, Nat.zero_add]

/-! ### What each command stores -/

/-- What a cipher command leaves in BITMEM: in its destination bit `k` of the output, unspecified where the source bit
is, and elsewhere what was there (I3). -/
theorem cipherEffect_readRange_get {olen : Nat} {s : State} (hn : olen ≤ s.len.toNat) (out : Nat → Bool) (a : Nat) :
    (cipherEffect olen (readRange out 0 olen) s).bitmem.get a =
      if s.dst.toNat ≤ a ∧ a < s.dst.toNat + olen then
        (s.bitmem.get (s.src.toNat + (a - s.dst.toNat))).map (fun _ => out (a - s.dst.toNat))
      else s.bitmem.get a := by
  have hlen : (resultElements (sourceElements s) (readRange out 0 olen)).length = olen := by
    rw [resultElements_length (by rwa [readRange_length]), readRange_length]
  rw [setOlen_bitmem, writeBits_bitmem, Memory.get_store, hlen]
  split
  next hin =>
    rw [resultElements_get, sourceElements_get s (by omega), readRange_getElem?, if_pos (by omega), Nat.zero_add]
    cases s.bitmem.get (s.src.toNat + (a - s.dst.toNat)) <;> rfl
  next => rfl

theorem commandEffect_sub (s : State) :
    commandEffect .sub s = cipherEffect s.evenLen (readRange (substBit (sourceBit s)) 0 s.evenLen) s := by
  rw [commandEffect, sourceBits_eq_readRange, subst_readRange]
  rfl

theorem commandEffect_xor (s : State) :
    commandEffect .xor s =
      cipherEffect s.len.toNat (readRange (fun k => sourceBit s k ^^ keystreamBit s k) 0 s.len.toNat) s := by
  rw [commandEffect, sourceBits_eq_readRange, xorStream_readRange]

theorem commandEffect_enc (s : State) :
    commandEffect .enc s =
      cipherEffect s.evenLen (readRange (fun k => substBit (sourceBit s) k ^^ keystreamBit s k) 0 s.evenLen) s := by
  rw [commandEffect, sourceBits_eq_readRange, subst_readRange, xorStream_readRange]
  rfl

theorem commandEffect_dec (s : State) :
    commandEffect .dec s =
      cipherEffect s.evenLen (readRange (substBit fun k => sourceBit s k ^^ keystreamBit s k) 0 s.evenLen) s := by
  rw [commandEffect, sourceBits_eq_readRange, xorStream_readRange, subst_readRange]
  rfl

/-! ### The checks of rule R104 -/

section
variable {i : Instr} {s : State} {needKey : Bool} {olen : Nat}

/-- A command whose check fails answers the error entry with its own operation code (rule R163). -/
theorem exec_answers_errorEntry {e : CmdError} (h : commandCheck i s = some e) :
    answers (exec i s) (errorEntry s (opcode i) e.code.byte e.info) := by
  refine ⟨_, exec_of_some h, ?_⟩
  rw [agrees, raiseError, encode_opc]
  rfl

/-- A command whose checks pass answers its effect, completed (rule R152). -/
theorem exec_answers_completed (h : commandCheck i s = none) :
    answers (exec i s) (completed (commandEffect i s)) :=
  ⟨_, exec_of_none h, rfl⟩

/-- With a legal key, where one is needed, only the layout can be wrong. -/
theorem cipherCheck_of_keyOk (hk : needKey = true → keyOk s) :
    cipherCheck needKey olen s = cipherCheck false olen s := by
  cases needKey with
  | false => rfl
  | true =>
    obtain ⟨hpos, hmax, hphase⟩ := hk rfl
    rw [cipherCheck, if_neg (by omega), if_neg (by omega)]
    rfl

/-- A legal key, where one is needed, and a legal layout pass the checks. -/
theorem cipherCheck_eq_none (hk : needKey = true → keyOk s) (hl : layoutOk s olen) :
    cipherCheck needKey olen s = none := by
  obtain ⟨hsrc, hdst, hover⟩ := hl
  rw [cipherCheck_of_keyOk hk]
  simp only [cipherCheck, Bool.false_eq_true, false_and, if_false, Nat.not_lt.mpr hsrc, Nat.not_lt.mpr hdst, hover]

/-- The layout errors of a cipher command come in the order of rule R104. -/
theorem layoutErrors_of_cipherCheck (hc : commandCheck i s = cipherCheck needKey olen s)
    (hk : needKey = true → keyOk s) : layoutErrors i (opcode i) olen s := by
  rw [cipherCheck_of_keyOk hk] at hc
  refine ⟨fun hsrc => ?source, fun hsrc hdst => ?destination, fun hsrc hdst hpos hlo hhi => ?overlap⟩
  case source =>
    exact exec_answers_errorEntry (e := ⟨.range, 0#32⟩) (by simp [hc, cipherCheck, hsrc])
  case destination =>
    exact exec_answers_errorEntry (e := ⟨.range, 1#32⟩)
      (by simp [hc, cipherCheck, Nat.not_lt.mpr hsrc, hdst])
  case overlap =>
    exact exec_answers_errorEntry (e := ⟨.overlap, 0#32⟩)
      (by simp [hc, cipherCheck, Nat.not_lt.mpr hsrc, Nat.not_lt.mpr hdst, hpos, hlo, hhi])

/-- The information word of a phase error is the phase with bit 16 set, `0x10000 + P` (rule R104). -/
theorem phaseInfo_eq (p : Half) : 0x10000#32 ||| p.setWidth 32 = BitVec.ofNat 32 (0x10000 + p.toNat) := by
  have hp := p.isLt
  have hor := Nat.two_pow_add_eq_or_of_lt hp 1
  apply BitVec.eq_of_toNat_eq
  rw [BitVec.toNat_or, BitVec.toNat_setWidth, BitVec.toNat_ofNat, BitVec.toNat_ofNat,
    Nat.mod_eq_of_lt (a := p.toNat) (by omega), Nat.mod_eq_of_lt (a := 0x10000 + p.toNat) (by omega)]
  exact hor.symm

/-- The errors of a keyed cipher command come in the order of rule R104. -/
theorem keyedErrors_of_cipherCheck (hc : commandCheck i s = cipherCheck true olen s) :
    keyedErrors i (opcode i) olen s := by
  refine ⟨fun hlen => ?keylen, fun hpos hmax hphase => ?kphase, fun hk => layoutErrors_of_cipherCheck hc fun _ => hk⟩
  case keylen =>
    rw [BitVec.ofNat_toNat]
    exact exec_answers_errorEntry (e := ⟨.keyInvalid, s.keylen.setWidth 32⟩) (by simp [hc, cipherCheck, hlen])
  case kphase =>
    rw [← phaseInfo_eq]
    refine exec_answers_errorEntry (e := ⟨.keyInvalid, 0x10000#32 ||| s.kphase.setWidth 32⟩) ?_
    rw [hc, cipherCheck, if_neg (by omega), if_pos ⟨rfl, hphase⟩]

/-- A cipher command that passes its checks meets the success clause of its rule. -/
theorem cipherResult_of_effect {out : Nat → Bool} (hc : commandCheck i s = none) (hn : olen ≤ s.len.toNat)
    (he : commandEffect i s = cipherEffect olen (readRange out 0 olen) s) : cipherResult i olen out s := by
  have hanswers := exec_answers_completed hc
  rw [he] at hanswers
  refine ⟨_, hanswers, fun k hk => ?_, fun a ha => ?_⟩
  · rw [cipherEffect_readRange_get hn, if_pos (by omega), Nat.add_sub_cancel_left]
  · rw [cipherEffect_readRange_get hn, if_neg (by omega)]

end

/-! ### The rules of the four commands -/

/-- Settles O19: SUB needs no key and stores the substituted source bits. -/
theorem subMeetsItsRule : Obligations.SubMeetsItsRule :=
  ⟨decode_encode .sub, fun s => ⟨layoutErrors_of_cipherCheck (i := .sub) (needKey := false) rfl nofun, fun hl =>
    cipherResult_of_effect (cipherCheck_eq_none nofun hl) (evenLen_le s) (commandEffect_sub s)⟩⟩

/-- Settles O20: XOR stores the stream over all `LEN` source bits. -/
theorem xorMeetsItsRule : Obligations.XorMeetsItsRule :=
  ⟨decode_encode .xor, fun s => ⟨keyedErrors_of_cipherCheck (i := .xor) rfl, fun hk hl =>
    cipherResult_of_effect (cipherCheck_eq_none (fun _ => hk) hl) le_rfl (commandEffect_xor s)⟩⟩

/-- Settles O21: ENC stores the stream over the substituted source bits. -/
theorem encMeetsItsRule : Obligations.EncMeetsItsRule :=
  ⟨decode_encode .enc, fun s => ⟨keyedErrors_of_cipherCheck (i := .enc) rfl, fun hk hl =>
    cipherResult_of_effect (cipherCheck_eq_none (fun _ => hk) hl) (evenLen_le s) (commandEffect_enc s)⟩⟩

/-- Settles O22: DEC stores the substitution of the stream over the source bits. -/
theorem decMeetsItsRule : Obligations.DecMeetsItsRule :=
  ⟨decode_encode .dec, fun s => ⟨keyedErrors_of_cipherCheck (i := .dec) rfl, fun hk hl =>
    cipherResult_of_effect (cipherCheck_eq_none (fun _ => hk) hl) (evenLen_le s) (commandEffect_dec s)⟩⟩

end Sys2Proof.Machine
end

section
/-! PROOFS. What the cipher commands do one after another (40_cipher.md rules R110 to R112): ENC and DEC are one
function, a command or its partner undoes it, and ENC over two segments is ENC over the whole. Each output bit is a
function of the source bit of its index, and the proofs compose these functions. -/

namespace Sys2Proof.Machine

open Sys2Proof.Machine.Spec

/-! ### The output bit as a function of the source bit -/

/-- The `n` elements of `m'` from `dst` on are those of `m` from `src` on, element `k` through `f k` where it is
specified. -/
def MapsBits (f : Nat → Bool → Bool) (n : Nat) (m : Memory Bool) (src : Nat) (m' : Memory Bool) (dst : Nat) : Prop :=
  ∀ k, k < n → m'.get (dst + k) = (m.get (src + k)).map (f k)

/-- Maps that are their own inverses, applied twice, give the elements back. -/
theorem MapsBits.restores {f : Nat → Bool → Bool} {n src mid dst : Nat} {m m' m'' : Memory Bool}
    (h : MapsBits f n m src m' mid) (h' : MapsBits f n m' mid m'' dst) (hf : ∀ k, Function.Involutive (f k)) :
    ∀ k, k < n → m''.get (dst + k) = m.get (src + k) := by
  intro k hk
  rw [h' k hk, h k hk, Option.map_map, (hf k).comp_self, Option.map_id_apply]

/-- What is computed from the bit read is computed from the bit held, where there is one. -/
theorem map_get_sourceBit (s : State) (f : Bool → Bool) (k : Nat) :
    (s.bitmem.get (s.src.toNat + k)).map (fun _ => f (sourceBit s k)) =
      (s.bitmem.get (s.src.toNat + k)).map f := by
  cases h : s.bitmem.get (s.src.toNat + k) with
  | none => rfl
  | some b => rw [sourceBit, bit_of_get h]; rfl

/-- A command whose output bit `k` is `f k` of source bit `k` maps the source to the destination. -/
theorem cipherEffect_mapsBits {olen : Nat} {s : State} (hn : olen ≤ s.len.toNat) (f : Nat → Bool → Bool) :
    MapsBits f olen s.bitmem s.src.toNat
      (cipherEffect olen (readRange (fun k => f k (sourceBit s k)) 0 olen) s).bitmem s.dst.toNat := by
  intro k hk
  rw [cipherEffect_readRange_get hn, if_pos (by omega), Nat.add_sub_cancel_left, map_get_sourceBit]

theorem xor_keystreamBit_involutive (s : State) (k : Nat) : Function.Involutive (fun b => b ^^ keystreamBit s k) :=
  fun b => by simp only [Bool.xor_assoc, Bool.xor_self, Bool.xor_false]

/-- Substitution and stream cipher of bit `k`, in either order (rule R110). -/
def encodeBit (s : State) (k : Nat) (b : Bool) : Bool := (!b) ^^ keystreamBit s k

theorem encodeBit_involutive (s : State) (k : Nat) : Function.Involutive (encodeBit s k) := fun b => by
  simp only [encodeBit, Bool.not_xor, Bool.not_not, Bool.xor_assoc, Bool.xor_self, Bool.xor_false]

theorem commandEffect_sub_mapsBits (s : State) :
    MapsBits (fun _ b => !b) s.evenLen s.bitmem s.src.toNat (commandEffect .sub s).bitmem s.dst.toNat := by
  rw [commandEffect_sub, substBit_eq]
  exact cipherEffect_mapsBits (evenLen_le s) (fun _ b => !b)

theorem commandEffect_xor_mapsBits (s : State) :
    MapsBits (fun k b => b ^^ keystreamBit s k) s.len.toNat s.bitmem s.src.toNat (commandEffect .xor s).bitmem
      s.dst.toNat := by
  rw [commandEffect_xor]
  exact cipherEffect_mapsBits le_rfl (fun k b => b ^^ keystreamBit s k)

theorem commandEffect_enc_mapsBits (s : State) :
    MapsBits (encodeBit s) s.evenLen s.bitmem s.src.toNat (commandEffect .enc s).bitmem s.dst.toNat := by
  rw [commandEffect_enc, substBit_eq]
  exact cipherEffect_mapsBits (evenLen_le s) (encodeBit s)

/-- The complement commutes with the XOR of a keystream bit, so the order of the two stages does not matter. -/
theorem commandEffect_dec_eq_enc (s : State) : commandEffect .dec s = commandEffect .enc s := by
  rw [commandEffect_dec, commandEffect_enc, substBit_eq, substBit_eq]
  simp only [Bool.not_xor]

/-! ### The commands under a legal key and layout -/

theorem exec_sub_of_layoutOk {s : State} (hl : layoutOk s s.evenLen) :
    exec .sub s = .next (complete (commandEffect .sub s)) :=
  exec_of_none (cipherCheck_eq_none nofun hl)

section
variable {s : State} (hk : keyOk s)
include hk

theorem exec_xor_of_keyOk (hl : layoutOk s s.len.toNat) : exec .xor s = .next (complete (commandEffect .xor s)) :=
  exec_of_none (cipherCheck_eq_none (fun _ => hk) hl)

theorem exec_enc_of_keyOk (hl : layoutOk s s.evenLen) : exec .enc s = .next (complete (commandEffect .enc s)) :=
  exec_of_none (cipherCheck_eq_none (fun _ => hk) hl)

theorem exec_dec_of_keyOk (hl : layoutOk s s.evenLen) : exec .dec s = .next (complete (commandEffect .enc s)) := by
  rw [← commandEffect_dec_eq_enc]
  exact exec_of_none (cipherCheck_eq_none (fun _ => hk) hl)

end

/-- Settles O35: the two effects are one, whose bits are those of `encodeBit`. -/
theorem encAndDecAreTheSameFunction : Obligations.EncAndDecAreTheSameFunction := fun s hk hl =>
  ⟨_, exec_enc_of_keyOk hk hl, exec_dec_of_keyOk hk hl, commandEffect_enc_mapsBits s⟩

/-! ### A second command over the output of the first (rule R111) -/

/-- The registers the host writes after command `i`, so that the next command reads its output and writes at `d`. -/
def rerun (i : Instr) (s : State) (d len : Word) : State :=
  { complete (commandEffect i s) with src := s.dst, dst := d, len := len }

section
variable (i : Instr) (s : State) (d len : Word)

theorem rerun_keyOk : keyOk (rerun i s d len) ↔ keyOk s := by
  simp only [keyOk, rerun, complete_keylen, complete_kphase, complete_params, commandEffect_keylen,
    commandEffect_kphase, commandEffect_params]

theorem rerun_layoutOk (n : Nat) :
    layoutOk (rerun i s d len) n ↔ layoutOk { s with src := s.dst, dst := d, len := len } n := by
  simp only [layoutOk, rerun, complete_params, commandEffect_params]

/-- The second command uses the keystream of the first. -/
theorem rerun_keystreamBit : keystreamBit (rerun i s d len) = keystreamBit s := by
  funext k
  simp only [keystreamBit, State.keyBit, rerun, complete_keylen, complete_kphase, complete_key, commandEffect_keylen,
    commandEffect_kphase, commandEffect_key]

theorem rerun_encodeBit : encodeBit (rerun i s d len) = encodeBit s := by
  funext k b
  rw [encodeBit, rerun_keystreamBit, encodeBit]

/-- The even length a command stores in `OLEN` is exact, and even (rule R11). -/
theorem rerun_evenLen : (rerun i s d (BitVec.ofNat 32 s.evenLen)).evenLen = s.evenLen := by
  have hexact : (BitVec.ofNat 32 s.evenLen).toNat = s.evenLen := setOlen_olen_toNat (evenLen_le s) s
  rw [State.evenLen, rerun, hexact, State.evenLen]
  omega

end

/-- Settles O36: the complement of the complement. -/
theorem subTwiceRestores : Obligations.SubTwiceRestores := by
  intro s d hl hl'
  have second := commandEffect_sub_mapsBits (rerun .sub s d (BitVec.ofNat 32 s.evenLen))
  have runs := exec_sub_of_layoutOk (s := rerun .sub s d (BitVec.ofNat 32 s.evenLen))
  rw [rerun_evenLen] at second runs
  exact ⟨_, _, exec_sub_of_layoutOk hl, runs ((rerun_layoutOk ..).mpr hl'),
    (commandEffect_sub_mapsBits s).restores second fun _ => Bool.not_not⟩

/-- Settles O37: the same keystream bit XORed twice. -/
theorem xorTwiceRestores : Obligations.XorTwiceRestores := by
  intro s d hk hl hl'
  have second := commandEffect_xor_mapsBits (rerun .xor s d s.len)
  have runs := exec_xor_of_keyOk ((rerun_keyOk .xor s d s.len).mpr hk)
  rw [rerun_keystreamBit] at second
  exact ⟨_, _, exec_xor_of_keyOk hk hl, runs ((rerun_layoutOk ..).mpr hl'),
    (commandEffect_xor_mapsBits s).restores second (xor_keystreamBit_involutive s)⟩

/-- Settles O38: DEC is ENC, which undoes itself. -/
theorem decUndoesEnc : Obligations.DecUndoesEnc := by
  intro s d hk hl hl'
  have second := commandEffect_enc_mapsBits (rerun .enc s d (BitVec.ofNat 32 s.evenLen))
  have runs := exec_dec_of_keyOk ((rerun_keyOk .enc s d (BitVec.ofNat 32 s.evenLen)).mpr hk)
  rw [rerun_evenLen] at second runs
  rw [rerun_encodeBit] at second
  exact ⟨_, _, exec_enc_of_keyOk hk hl, runs ((rerun_layoutOk ..).mpr hl'),
    (commandEffect_enc_mapsBits s).restores second (encodeBit_involutive s)⟩

/-! ### ENC over two segments (rule R112) -/

/-- What ENC leaves in BITMEM, inside its destination and outside. -/
theorem commandEffect_enc_get (s : State) (x : Nat) :
    (commandEffect .enc s).bitmem.get x =
      if s.dst.toNat ≤ x ∧ x < s.dst.toNat + s.evenLen then
        (s.bitmem.get (s.src.toNat + (x - s.dst.toNat))).map (encodeBit s (x - s.dst.toNat))
      else s.bitmem.get x := by
  rw [commandEffect_enc, substBit_eq, cipherEffect_readRange_get (evenLen_le s)]
  split
  · exact map_get_sourceBit s (encodeBit s (x - s.dst.toNat)) (x - s.dst.toNat)
  · rfl

/-- The registers before the first segment: `LEN = a`. -/
def firstSegment (s : State) (a : Nat) : State := { s with len := BitVec.ofNat 32 a }

/-- The registers before the second segment, after ENC of the first: both ranges and the phase advanced by `a`. -/
def secondSegment (s : State) (a : Nat) : State :=
  { complete (commandEffect .enc (firstSegment s a)) with
    src := BitVec.ofNat 32 (s.src.toNat + a), dst := BitVec.ofNat 32 (s.dst.toNat + a),
    len := BitVec.ofNat 32 (s.len.toNat - a),
    kphase := BitVec.ofNat 16 ((s.kphase.toNat + a) % s.keylen.toNat) }

@[simp] theorem secondSegment_params (s : State) (a : Nat) : (secondSegment s a).params = s.params := by
  rw [secondSegment, complete_params, commandEffect_params, firstSegment]

@[simp] theorem secondSegment_keylen (s : State) (a : Nat) : (secondSegment s a).keylen = s.keylen := by
  rw [secondSegment, complete_keylen, commandEffect_keylen, firstSegment]

@[simp] theorem secondSegment_key (s : State) (a : Nat) : (secondSegment s a).key = s.key := by
  rw [secondSegment, complete_key, commandEffect_key, firstSegment]

section
variable {s : State} {a : Nat} (ha : a ≤ s.len.toNat)

section
include ha

theorem firstSegment_len_toNat : (firstSegment s a).len.toNat = a := by
  have hlt := s.len.isLt
  rw [firstSegment, BitVec.toNat_ofNat]
  omega

theorem secondSegment_len_toNat : (secondSegment s a).len.toNat = s.len.toNat - a := by
  have hlt := s.len.isLt
  rw [secondSegment, BitVec.toNat_ofNat]
  omega

theorem firstSegment_evenLen (heven : a % 2 = 0) : (firstSegment s a).evenLen = a := by
  rw [State.evenLen, firstSegment_len_toNat ha]
  omega

theorem secondSegment_evenLen (heven : a % 2 = 0) : (secondSegment s a).evenLen = s.evenLen - a := by
  rw [State.evenLen, secondSegment_len_toNat ha, State.evenLen]
  omega

/-- What the first segment left in BITMEM. -/
theorem secondSegment_bitmem_get (heven : a % 2 = 0) (x : Nat) :
    (secondSegment s a).bitmem.get x =
      if s.dst.toNat ≤ x ∧ x < s.dst.toNat + a then
        (s.bitmem.get (s.src.toNat + (x - s.dst.toNat))).map (encodeBit s (x - s.dst.toNat))
      else s.bitmem.get x := by
  have hget := commandEffect_enc_get (firstSegment s a) x
  rw [firstSegment_evenLen ha heven] at hget
  exact hget

theorem secondSegment_src_toNat (hp : s.params.wf) (hl : layoutOk s s.evenLen) :
    (secondSegment s a).src.toNat = s.src.toNat + a := by
  obtain ⟨⟨-, -, hnb⟩, -⟩ := hp
  obtain ⟨hsrc, -⟩ := hl
  rw [secondSegment, BitVec.toNat_ofNat]
  omega

theorem secondSegment_dst_toNat (hp : s.params.wf) (hl : layoutOk s s.evenLen) (heven : a % 2 = 0) :
    (secondSegment s a).dst.toNat = s.dst.toNat + a := by
  obtain ⟨⟨-, -, hnb⟩, -⟩ := hp
  obtain ⟨-, hdst, -⟩ := hl
  rw [State.evenLen] at hdst
  rw [secondSegment, BitVec.toNat_ofNat]
  omega

theorem firstSegment_layoutOk (hl : layoutOk s s.evenLen) (heven : a % 2 = 0) :
    layoutOk (firstSegment s a) (firstSegment s a).evenLen := by
  rw [layoutOk, firstSegment_evenLen ha heven, firstSegment_len_toNat ha]
  obtain ⟨hsrc, hdst, hover⟩ := hl
  rw [State.evenLen] at hdst hover
  simp only [firstSegment]
  omega

theorem secondSegment_layoutOk (hp : s.params.wf) (hl : layoutOk s s.evenLen) (heven : a % 2 = 0) :
    layoutOk (secondSegment s a) (secondSegment s a).evenLen := by
  rw [layoutOk, secondSegment_evenLen ha heven, secondSegment_len_toNat ha, secondSegment_src_toNat ha hp hl,
    secondSegment_dst_toNat ha hp hl heven, secondSegment_params]
  obtain ⟨hsrc, hdst, hover⟩ := hl
  rw [State.evenLen] at hdst hover ⊢
  omega

end

theorem secondSegment_kphase_toNat (hk : keyOk s) :
    (secondSegment s a).kphase.toNat = (s.kphase.toNat + a) % s.keylen.toNat := by
  obtain ⟨hpos, -⟩ := hk
  have hlt := Nat.mod_lt (s.kphase.toNat + a) hpos
  have hL := s.keylen.isLt
  rw [secondSegment, BitVec.toNat_ofNat, Nat.mod_eq_of_lt (by omega)]

theorem secondSegment_keyOk (hk : keyOk s) : keyOk (secondSegment s a) := by
  have hphase := secondSegment_kphase_toNat (a := a) hk
  obtain ⟨hpos, hmax, -⟩ := hk
  rw [keyOk, hphase, secondSegment_keylen, secondSegment_params]
  exact ⟨hpos, hmax, Nat.mod_lt _ hpos⟩

/-- The advanced phase goes on with the keystream where the first segment left it. -/
theorem secondSegment_encodeBit (hk : keyOk s) (k : Nat) :
    encodeBit (secondSegment s a) k = encodeBit s (a + k) := by
  have hstream : keystreamBit (secondSegment s a) k = keystreamBit s (a + k) := by
    rw [keystreamBit, secondSegment_kphase_toNat hk, secondSegment_keylen, Nat.mod_add_mod, Nat.add_assoc,
      State.keyBit, secondSegment_key]
    rfl
  funext b
  rw [encodeBit, hstream, encodeBit]

include ha in
/-- The second segment reads no bit the first has written, and together they write what one ENC does. -/
theorem secondSegment_enc_get (hp : s.params.wf) (hk : keyOk s) (hl : layoutOk s s.evenLen) (heven : a % 2 = 0)
    (x : Nat) :
    (commandEffect .enc (secondSegment s a)).bitmem.get x = (commandEffect .enc s).bitmem.get x := by
  have hsecond := commandEffect_enc_get (secondSegment s a) x
  rw [secondSegment_evenLen ha heven, secondSegment_src_toNat ha hp hl, secondSegment_dst_toNat ha hp hl heven,
    secondSegment_encodeBit hk] at hsecond
  obtain ⟨-, -, hover⟩ := hl
  have hle : a ≤ s.evenLen := by rw [State.evenLen]; omega
  have hlen := evenLen_le s
  rw [hsecond, commandEffect_enc_get]
  by_cases htail : s.dst.toNat + a ≤ x ∧ x < s.dst.toNat + s.evenLen
  · have hsrc : s.src.toNat + a + (x - (s.dst.toNat + a)) = s.src.toNat + (x - s.dst.toNat) := by omega
    have hidx : a + (x - (s.dst.toNat + a)) = x - s.dst.toNat := by omega
    rw [if_pos (by omega), if_pos (by omega), hsrc, hidx, secondSegment_bitmem_get ha heven,
      if_neg (by omega)]
  · rw [if_neg (by omega), secondSegment_bitmem_get ha heven]
    by_cases hhead : s.dst.toNat ≤ x ∧ x < s.dst.toNat + a
    · rw [if_pos hhead, if_pos (by omega)]
    · rw [if_neg hhead, if_neg (by omega)]

end

/-- Settles O39: each of the three commands passes its checks, and the two segments leave what the one leaves. -/
theorem segmentedEncEqualsOneEnc : Obligations.SegmentedEncEqualsOneEnc := by
  intro s a hp hk hl heven ha
  have first := exec_enc_of_keyOk (s := firstSegment s a) hk (firstSegment_layoutOk ha hl heven)
  have second := exec_enc_of_keyOk (secondSegment_keyOk hk) (secondSegment_layoutOk ha hp hl heven)
  refine ⟨_, _, _, exec_enc_of_keyOk hk hl, first, second, fun x => ?_⟩
  rw [complete_bitmem, complete_bitmem]
  exact secondSegment_enc_get ha hp hk hl heven x

end Sys2Proof.Machine
end

section
/-! PROOFS. The raster commands B2P and P2B (41_raster.md rules R120 to R123): the errors of their range checks in
order, the elements each stores, and that P2B gives back the bits B2P turned into pixels. -/

namespace Sys2Proof.Machine

open Sys2Proof.Machine.Spec

/-! ### A range of one memory, converted and stored in the other -/

/-- The `n` elements of `m` from `base` on, each converted by `f` where it is specified. -/
def convertedRange {α β : Type} (f : α → β) (m : Memory α) (base n : Nat) : List (Option β) :=
  (readRange (fun k => m.get k) base n).map (Option.map f)

section
variable {α β : Type} {f : α → β} {m : Memory α} {m' : Memory β} {src dst n : Nat}

@[simp] theorem convertedRange_length : (convertedRange f m src n).length = n := by
  rw [convertedRange, List.length_map, readRange_length]

theorem get_store_convertedRange {k : Nat} (hk : k < n) :
    (m'.store dst (convertedRange f m src n)).get (dst + k) = (m.get (src + k)).map f := by
  rw [Memory.get_store, convertedRange_length, if_pos (by omega), convertedRange, Nat.add_sub_cancel_left,
    List.getElem?_map, readRange_getElem?, if_pos hk]
  rfl

theorem get_store_convertedRange_outside {a : Nat} (ha : a < dst ∨ dst + n ≤ a) :
    (m'.store dst (convertedRange f m src n)).get a = m'.get a :=
  Memory.get_store_outside (by rwa [convertedRange_length])

end

/-! ### The pixel of a bit and the bit of a pixel -/

theorem bitToPixel_eq : bitToPixel = fun b => if b = true then 0xFFFFFF#24 else 0x000000#24 := by
  funext b
  cases b <;> rfl

theorem pixelToBit_eq : pixelToBit = fun q => decide (q ≠ 0x000000#24) := by
  funext q
  by_cases hq : q = BLACK
  · rw [hq]
    rfl
  · rw [pixelToBit, if_neg hq]
    exact (decide_eq_true hq).symm

/-- WHITE is not BLACK, so the threshold finds the bit again (rule R122). -/
theorem pixelToBit_comp_bitToPixel : pixelToBit ∘ bitToPixel = id := by
  funext b
  cases b <;> rfl

/-! ### The effects of the two commands -/

theorem commandEffect_b2p (s : State) : commandEffect .b2p s = { s with
    pixmem := s.pixmem.store s.dst.toNat (convertedRange bitToPixel s.bitmem s.src.toNat s.len.toNat)
    olen := s.len } := by
  rw [commandEffect, setOlen, BitVec.ofNat_toNat, BitVec.setWidth_eq]
  rfl

theorem commandEffect_p2b (s : State) : commandEffect .p2b s = { s with
    bitmem := s.bitmem.store s.dst.toNat (convertedRange pixelToBit s.pixmem s.src.toNat s.len.toNat)
    olen := s.len } := by
  rw [commandEffect, setOlen, BitVec.ofNat_toNat, BitVec.setWidth_eq]
  rfl

/-! ### The range checks of both commands -/

section
variable {i : Instr} {s : State} {srcSize dstSize : Nat}

/-- Ranges that lie in their memories pass the checks. -/
theorem rasterCheck_eq_none (hsrc : s.src.toNat + s.len.toNat ≤ srcSize) (hdst : s.dst.toNat + s.len.toNat ≤ dstSize) :
    rasterCheck srcSize dstSize s = none := by
  rw [rasterCheck, if_neg (Nat.not_lt.mpr hsrc), if_neg (Nat.not_lt.mpr hdst)]

variable (hc : commandCheck i s = rasterCheck srcSize dstSize s)
include hc

theorem exec_answers_sourceRange (hsrc : srcSize < s.src.toNat + s.len.toNat) :
    answers (exec i s) (errorEntry s (opcode i) 0x04#8 0#32) :=
  exec_answers_errorEntry (e := ⟨.range, 0#32⟩) (by rw [hc, rasterCheck, if_pos hsrc])

theorem exec_answers_destinationRange (hsrc : s.src.toNat + s.len.toNat ≤ srcSize)
    (hdst : dstSize < s.dst.toNat + s.len.toNat) :
    answers (exec i s) (errorEntry s (opcode i) 0x04#8 1#32) :=
  exec_answers_errorEntry (e := ⟨.range, 1#32⟩)
    (by rw [hc, rasterCheck, if_neg (Nat.not_lt.mpr hsrc), if_pos hdst])

end

/-! ### The rules of the two commands -/

/-- Settles O23: the errors of `rasterCheck` in their order, otherwise the pixels `bitToPixel` gives. -/
theorem b2pMeetsItsRule : Obligations.B2pMeetsItsRule := by
  refine ⟨decode_encode .b2p, fun s => ⟨exec_answers_sourceRange (i := .b2p) rfl,
    exec_answers_destinationRange (i := .b2p) rfl, fun hsrc hdst => ?success⟩⟩
  case success =>
    have hanswers := exec_answers_completed (i := .b2p) (rasterCheck_eq_none hsrc hdst)
    rw [commandEffect_b2p] at hanswers
    refine ⟨_, hanswers, fun k hk => ?_, fun p hp => get_store_convertedRange_outside hp⟩
    rw [← bitToPixel_eq]
    exact get_store_convertedRange hk

/-- Settles O24: the errors of `rasterCheck` in their order, otherwise the bits `pixelToBit` gives. -/
theorem p2bMeetsItsRule : Obligations.P2bMeetsItsRule := by
  refine ⟨decode_encode .p2b, fun s => ⟨exec_answers_sourceRange (i := .p2b) rfl,
    exec_answers_destinationRange (i := .p2b) rfl, fun hsrc hdst => ?success⟩⟩
  case success =>
    have hanswers := exec_answers_completed (i := .p2b) (rasterCheck_eq_none hsrc hdst)
    rw [commandEffect_p2b] at hanswers
    refine ⟨_, hanswers, fun k hk => ?_, fun a ha => get_store_convertedRange_outside ha⟩
    rw [← pixelToBit_eq]
    exact get_store_convertedRange hk

/-- Settles O40: P2B reads the pixels B2P wrote, and `pixelToBit` undoes `bitToPixel`. -/
theorem p2bInvertsB2p : Obligations.P2bInvertsB2p := by
  intro s d hsrc hmid hdst
  have first := exec_of_none (i := .b2p) (rasterCheck_eq_none hsrc hmid)
  have second := exec_of_none (i := .p2b) (s := rerun .b2p s d s.len) (rasterCheck_eq_none hmid hdst)
  refine ⟨_, _, first, second, fun k hk => ?_⟩
  have hpixel : (rerun .b2p s d s.len).pixmem.get (s.dst.toNat + k) =
      (s.bitmem.get (s.src.toNat + k)).map bitToPixel := by
    rw [rerun, complete_pixmem, commandEffect_b2p]
    exact get_store_convertedRange hk
  have hbit : (commandEffect .p2b (rerun .b2p s d s.len)).bitmem.get (d.toNat + k) =
      ((rerun .b2p s d s.len).pixmem.get (s.dst.toNat + k)).map pixelToBit := by
    rw [commandEffect_p2b]
    exact get_store_convertedRange hk
  rw [complete_bitmem, hbit, hpixel, Option.map_map, pixelToBit_comp_bitToPixel, Option.map_id_apply]

/-! ### The canvas (rule R123) -/

/-- Settles O42: the column is the remainder and the row the quotient of `k` by the width. -/
theorem canvasIsRowMajor : Obligations.CanvasIsRowMajor := fun s k hk => by
  have hwidth : 0 < s.width.toNat := Nat.pos_of_lt_mul_right hk
  exact ⟨Nat.mod_lt k hwidth, Nat.div_lt_of_lt_mul hk, Nat.div_add_mod' k s.width.toNat⟩

end Sys2Proof.Machine
end

section
/-! PROOFS. The frame chunker commands SPLIT, FPUSH, MERGE and FCLR (42_chunker.md rules R130 to R135): the errors of
their checks in order, what each writes, that a merged sequence lies in PIXMEM, and that split frames pushed in any
order merge to the sequence they were cut from. -/

namespace Sys2Proof.Machine

open Sys2Proof.Machine.Spec

/-! ### The geometry (rule R130) -/

theorem geometryInfo_eq (s : State) : s.geometryInfo = geometryWord s := by
  have hor := Nat.shiftLeft_add_eq_or_of_lt s.width.isLt s.height.toNat
  have hwidth := s.width.isLt
  have hheight := s.height.isLt
  apply BitVec.eq_of_toNat_eq
  rw [State.geometryInfo, geometryWord, BitVec.toNat_append, ← hor, BitVec.toNat_ofNat, Nat.shiftLeft_eq]
  omega

theorem exec_answers_badGeometry {i : Instr} {s : State}
    (h : commandCheck i s = some { code := .badGeometry, info := s.geometryInfo }) :
    answers (exec i s) (errorEntry s (opcode i) 0x03#8 (geometryWord s)) := by
  rw [← geometryInfo_eq]
  exact exec_answers_errorEntry h

/-- Two 16-bit sides: the capacity is exact in a register. -/
theorem capacity_toNat (s : State) : (BitVec.ofNat 32 s.capacity).toNat = s.capacity := by
  have hlt : s.capacity < 2 ^ 16 * 2 ^ 16 := Nat.mul_lt_mul'' s.width.isLt s.height.isLt
  rw [BitVec.toNat_ofNat]
  omega

@[simp] theorem complete_capacity (s : State) : (complete s).capacity = s.capacity := rfl

@[simp] theorem commandEffect_capacity (i : Instr) (s : State) : (commandEffect i s).capacity = s.capacity := by
  rw [commandEffect_frame]
  rfl

/-! ### SPLIT (rule R131) -/

theorem splitCount_eq_of_least {s : State} {n : Nat} (hpos : 0 < s.capacity) (hholds : s.len.toNat ≤ n * s.capacity)
    (hleast : ∀ k, s.len.toNat ≤ k * s.capacity → n ≤ k) : s.splitCount = n :=
  Nat.le_antisymm ((splitCount_le_iff hpos n).mpr hholds) (hleast _ (len_le_splitCount hpos))

/-- A sequence whose frames lie in PIXMEM passes the checks. -/
theorem splitCheck_eq_none {s : State} (hpos : 0 < s.capacity) (hfit : s.splitCount * s.capacity ≤ s.params.np) :
    splitCheck s = none := by
  have hlen := (len_le_splitCount hpos).trans hfit
  rw [splitCheck, if_neg hpos.ne', if_neg (Nat.not_lt.mpr hlen), if_neg (Nat.not_lt.mpr hfit)]

/-- SPLIT writes the filler from the end of the sequence to the end of the last frame, and nothing else. -/
theorem commandEffect_split_get {s : State} (hpos : 0 < s.capacity) (p : Nat) :
    (commandEffect .split s).pixmem.get p =
      if s.len.toNat ≤ p ∧ p < s.splitCount * s.capacity then some s.fill else s.pixmem.get p := by
  have hend := Nat.add_sub_of_le (len_le_splitCount hpos)
  simp only [commandEffect, setFcount_pixmem, setOlen_pixmem, writePixels_pixmem, Memory.get_store,
    List.length_replicate, hend]
  split
  · rw [List.getElem?_replicate_of_lt (by omega)]
    rfl
  · rfl

/-- Settles O25: the errors of `splitCheck` in their order, otherwise the filler; the least count is `splitCount`. -/
theorem splitMeetsItsRule : Obligations.SplitMeetsItsRule := by
  refine ⟨decode_encode .split, fun s c n hc => ?_⟩
  change c = s.capacity at hc
  subst hc
  refine ⟨fun hzero => ?geometry, fun hpos hlong => ?sequence, fun hpos hlen hholds hleast => ?_⟩
  case geometry => exact exec_answers_badGeometry (i := .split) (if_pos hzero)
  case sequence =>
    exact exec_answers_errorEntry (i := .split) (e := ⟨.range, 0#32⟩)
      (by rw [commandCheck, splitCheck, if_neg hpos.ne', if_pos hlong])
  obtain rfl := splitCount_eq_of_least hpos hholds hleast
  refine ⟨fun hlong => ?padding, fun hfit => ?success⟩
  case padding =>
    exact exec_answers_errorEntry (i := .split) (e := ⟨.range, 1#32⟩)
      (by rw [commandCheck, splitCheck, if_neg hpos.ne', if_neg (Nat.not_lt.mpr hlen), if_pos hlong])
  case success =>
    refine ⟨(commandEffect .split s).pixmem, exec_answers_completed (splitCheck_eq_none hpos hfit),
      fun p hfrom hto => ?_, fun p hout => ?_⟩
    · rw [commandEffect_split_get hpos, if_pos ⟨hfrom, hto⟩]
    · rw [commandEffect_split_get hpos, if_neg (by omega)]

/-! ### FPUSH (rule R132) -/

section
variable {s : State} (hpos : 0 < s.capacity) (hmax : s.capacity ≤ s.params.cmax)
  (hlatch : s.pcap = 0#32 ∨ s.capacity = s.pcap.toNat)
include hpos hmax hlatch

/-- With a capacity that is legal and the latched one, if one is latched, only the index can be wrong. -/
theorem fpushCheck_of_geometry : fpushCheck s =
    if s.params.np < (s.fidx.toNat + 1) * s.capacity then some { code := .frameIndexRange, info := s.fidx }
    else if s.isPresent s.fidx.toNat = true then some { code := .duplicateFrame, info := s.fidx }
    else none := by
  rw [fpushCheck, if_neg (by omega), if_neg (fun h => hlatch.elim h.1 h.2)]

/-- A new index whose slot lies in PIXMEM passes the checks. -/
theorem fpushCheck_eq_none (hslot : (s.fidx.toNat + 1) * s.capacity ≤ s.params.np)
    (habsent : s.fidx.toNat ∉ s.present) : fpushCheck s = none := by
  rw [fpushCheck_of_geometry hpos hmax hlatch, if_neg (Nat.not_lt.mpr hslot),
    if_neg (by simpa [State.isPresent] using habsent)]

end

/-- FPUSH copies the staged elements to the slot of the index, and writes nothing else to PIXMEM. -/
theorem commandEffect_fpush_get (s : State) (p : Nat) :
    (commandEffect .fpush s).pixmem.get p =
      if s.fidx.toNat * s.capacity ≤ p ∧ p < s.fidx.toNat * s.capacity + s.capacity then
        s.stage.get (p - s.fidx.toNat * s.capacity)
      else s.pixmem.get p := by
  simp only [commandEffect, setOlen_pixmem, recordFrame_pixmem, writePixels_pixmem, Memory.get_store, readRange_length,
    State.frameSlot]
  split
  · rw [readRange_getElem?, if_pos (by omega), Nat.zero_add]
    rfl
  · rfl

/-- After FPUSH the latched capacity is `C`, latched now or before. -/
theorem commandEffect_fpush_pcap_toNat {s : State} (hlatch : s.pcap = 0#32 ∨ s.capacity = s.pcap.toNat) :
    (commandEffect .fpush s).pcap.toNat = s.capacity := by
  change (if s.pcap = 0#32 then BitVec.ofNat 32 s.capacity else s.pcap).toNat = _
  split
  · exact capacity_toNat s
  · next hne => exact (hlatch.resolve_left hne).symm

/-- Settles O26: the errors of `fpushCheck` in their order, otherwise the staged frame in its slot. -/
theorem fpushMeetsItsRule : Obligations.FpushMeetsItsRule := by
  refine ⟨decode_encode .fpush, fun s c f hc hf => ?_⟩
  change c = s.capacity at hc
  subst hc hf
  refine ⟨fun hbad => ?capacity, fun hpos hmax => ⟨fun hlatched hne => ?latched, fun hlatch => ?_⟩⟩
  case capacity => exact exec_answers_badGeometry (i := .fpush) (if_pos hbad)
  case latched =>
    exact exec_answers_badGeometry (i := .fpush)
      (by rw [commandCheck, fpushCheck, if_neg (by omega), if_pos ⟨hlatched, hne⟩])
  have hcheck := fpushCheck_of_geometry hpos hmax hlatch
  refine ⟨fun hlong => ?range, fun hslot hpresent => ?duplicate, fun hslot habsent => ?success⟩
  case range =>
    exact exec_answers_errorEntry (i := .fpush) (e := ⟨.frameIndexRange, s.fidx⟩)
      (by rw [commandCheck, hcheck, if_pos hlong])
  case duplicate =>
    refine exec_answers_errorEntry (i := .fpush) (e := ⟨.duplicateFrame, s.fidx⟩) ?_
    rw [commandCheck, hcheck, if_neg (Nat.not_lt.mpr hslot), if_pos (by simpa [State.isPresent] using hpresent)]
  case success =>
    refine ⟨(commandEffect .fpush s).pixmem, insertFrame s.fidx.toNat s.present,
      exec_answers_completed (fpushCheck_eq_none hpos hmax hlatch hslot habsent),
      fun k hk => ?_, fun p hout => ?_, fun g => mem_insertFrame s.present⟩
    · rw [commandEffect_fpush_get, if_pos (by omega), Nat.add_sub_cancel_left]
    · rw [commandEffect_fpush_get, if_neg (by omega)]

/-! ### MERGE (rule R133) -/

/-- MERGE's `N` is the number the rule names: 0 with no frame present, else 1 + the highest present index. -/
theorem mergeCount_eq {s : State} {n : Nat} (h : (n = 0 ∧ s.present = []) ∨
    (∃ top, n = top + 1 ∧ top ∈ s.present ∧ ∀ f ∈ s.present, f ≤ top)) : s.mergeCount = n := by
  obtain ⟨rfl, hnil⟩ | ⟨top, rfl, htop, hmax⟩ := h
  · rw [State.mergeCount, hnil]
    rfl
  · have hlt := lt_mergeCount htop
    obtain hzero | ⟨f, hf, heq⟩ := mergeCount_attained s
    · omega
    · have := hmax f hf
      omega

/-- With a legal capacity that is the latched one, if one is latched, only a gap in the indices can be wrong. -/
theorem mergeCheck_of_geometry {s : State} (hpos : 0 < s.capacity)
    (hlatch : s.pcap = 0#32 ∨ s.capacity = s.pcap.toNat) : mergeCheck s =
      (leastAbsent s.present s.mergeCount 0).map fun f => { code := .missingFrame, info := BitVec.ofNat 32 f } := by
  rw [mergeCheck, if_neg hpos.ne', if_neg (fun h => hlatch.elim h.1 h.2)]
  cases leastAbsent s.present s.mergeCount 0 <;> rfl

theorem leastAbsent_eq_some {l : List Nat} {n g : Nat} (hlt : g < n) (habsent : g ∉ l)
    (hbefore : ∀ f, f < g → f ∈ l) : leastAbsent l n 0 = some g := by
  cases h : leastAbsent l n 0 with
  | none => exact absurd (leastAbsent_none.mp h g (Nat.zero_le g) (by omega)) habsent
  | some f =>
    obtain ⟨-, -, hf, hall⟩ := leastAbsent_some h
    have hle : g ≤ f := Nat.le_of_not_lt fun hfg => hf (hbefore f hfg)
    have hge : f ≤ g := Nat.le_of_not_lt fun hgf => habsent (hall g (Nat.zero_le g) hgf)
    rw [Nat.le_antisymm hge hle]

/-- Frames with no gap pass the checks. -/
theorem mergeCheck_eq_none {s : State} (hpos : 0 < s.capacity) (hlatch : s.pcap = 0#32 ∨ s.capacity = s.pcap.toNat)
    (hall : ∀ f, f < s.mergeCount → f ∈ s.present) : mergeCheck s = none := by
  rw [mergeCheck_of_geometry hpos hlatch, leastAbsent_none.mpr fun k _ hk => hall k (by omega)]
  rfl

/-- Settles O27: the errors of `mergeCheck` in their order, otherwise the count and the length. -/
theorem mergeMeetsItsRule : Obligations.MergeMeetsItsRule := by
  refine ⟨decode_encode .merge, fun s c n hc => ?_⟩
  change c = s.capacity at hc
  subst hc
  refine ⟨fun hzero => ?capacity, fun hpos hlatched hne => ?latched, fun hpos hlatch hn => ?_⟩
  case capacity => exact exec_answers_badGeometry (i := .merge) (if_pos hzero)
  case latched =>
    exact exec_answers_badGeometry (i := .merge)
      (by rw [commandCheck, mergeCheck, if_neg hpos.ne', if_pos ⟨hlatched, hne⟩])
  obtain rfl := mergeCount_eq hn
  refine ⟨fun g hlt habsent hbefore => ?missing, fun hall => ?success⟩
  case missing =>
    refine exec_answers_errorEntry (i := .merge) (e := ⟨.missingFrame, BitVec.ofNat 32 g⟩) ?_
    rw [commandCheck, mergeCheck_of_geometry hpos hlatch, leastAbsent_eq_some hlt habsent hbefore]
    rfl
  case success => exact exec_answers_completed (mergeCheck_eq_none hpos hlatch hall)

/-- With the checks passed, MERGE's frames lie in PIXMEM: the highest present slot does. -/
theorem mergeCount_mul_capacity_le {s : State} (h : s.FramesOk)
    (hlatch : s.pcap = 0#32 ∨ s.capacity = s.pcap.toNat) : s.mergeCount * s.capacity ≤ s.params.np := by
  obtain hzero | ⟨f, hf, heq⟩ := mergeCount_attained s
  · rw [hzero, Nat.zero_mul]
    exact Nat.zero_le _
  · have hlatched : s.pcap ≠ 0#32 := fun h0 => List.ne_nil_of_mem hf (h.latched.mp h0)
    rw [heq, hlatch.resolve_left hlatched]
    exact h.slots f hf

/-- Settles O45: a completed MERGE has passed its checks, since DONE was 0 before, and `N * C ≤ NP` is far below
2^32. -/
theorem mergedFramesFitPixmem : Obligations.MergedFramesFitPixmem := by
  intro s t hinv hbusy hexec hdone
  obtain ⟨e, -, rfl⟩ | ⟨hc, rfl⟩ := exec_cases hexec
  · obtain ⟨hd, -⟩ := hinv.statusOk.busy (Option.isSome_iff_ne_none.mpr hbusy)
    rw [raiseError_done, hd] at hdone
    cases hdone
  · obtain ⟨hpos, hlatch, -⟩ := mergeCheck_none hc
    have hfit := mergeCount_mul_capacity_le hinv.framesOk hlatch
    have hcount := Nat.le_mul_of_pos_right s.mergeCount hpos
    obtain ⟨-, ⟨-, hnp⟩, -⟩ := hinv.shaped.params
    have holen : (BitVec.ofNat 32 (s.mergeCount * s.capacity)).toNat = s.mergeCount * s.capacity := by
      rw [BitVec.toNat_ofNat]
      omega
    have hfcount : (BitVec.ofNat 32 s.mergeCount).toNat = s.mergeCount := by
      rw [BitVec.toNat_ofNat]
      omega
    simp only [complete_olen, complete_fcount, commandEffect, setFcount_olen, setFcount_fcount, setOlen_olen, holen,
      hfcount, hfit, and_self]

/-! ### FCLR (rule R134) -/

/-- Settles O28: FCLR has no check, and its effect is `clearFrames`. -/
theorem fclrClearsTheFrameBookkeeping : Obligations.FclrClearsTheFrameBookkeeping :=
  ⟨decode_encode .fclr, fun _ => exec_answers_completed (i := .fclr) rfl⟩

/-! ### Frames pushed one after another (rule R135) -/

/-- What stands after FCLR on `s` and pushes of some of the `frames`: the geometry is that of `s`, no error, and every
present slot holds its frame. -/
structure PushedOnto (frames : Nat → Pixel) (s t : State) : Prop where
  params : t.params = s.params
  capacity : t.capacity = s.capacity
  err : t.err = false
  latch : t.pcap = 0#32 ∨ s.capacity = t.pcap.toNat
  pixels : ∀ p, p / s.capacity ∈ t.present → t.pixmem.get p = some (frames p)

/-- After FCLR no frame is present. -/
theorem PushedOnto.of_cleared (frames : Nat → Pixel) {s t : State} (hp : t.params = s.params)
    (hc : t.capacity = s.capacity) (he : t.err = false) :
    PushedOnto frames s (complete (commandEffect .fclr t)) where
  params := by rw [complete_params, commandEffect_params, hp]
  capacity := by rw [complete_capacity, commandEffect_capacity, hc]
  err := by rw [complete_err, commandEffect_err, he]
  latch := .inl rfl
  pixels := nofun

/-- Frame `f` of the `frames` stands in STAGE and its index in FIDX. -/
def stagedFrame (frames : Nat → Pixel) (f : Nat) (t : State) : State :=
  { t with
    stage := t.stage.write 0 (readRange frames (f * t.capacity) t.capacity), fidx := BitVec.ofNat 32 f }

section
variable (frames : Nat → Pixel) (f : Nat) (t : State)

@[simp] theorem stagedFrame_params : (stagedFrame frames f t).params = t.params := rfl
@[simp] theorem stagedFrame_err : (stagedFrame frames f t).err = t.err := rfl
@[simp] theorem stagedFrame_capacity : (stagedFrame frames f t).capacity = t.capacity := rfl
@[simp] theorem stagedFrame_pixmem : (stagedFrame frames f t).pixmem = t.pixmem := rfl
@[simp] theorem stagedFrame_present : (stagedFrame frames f t).present = t.present := rfl
@[simp] theorem stagedFrame_pcap : (stagedFrame frames f t).pcap = t.pcap := rfl
@[simp] theorem stagedFrame_fidx : (stagedFrame frames f t).fidx = BitVec.ofNat 32 f := rfl

theorem pushFrame_eq : pushFrame frames f t = exec .fpush (stagedFrame frames f t) := rfl

theorem stagedFrame_get {k : Nat} (hk : k < t.capacity) :
    (stagedFrame frames f t).stage.get k = some (frames (f * t.capacity + k)) := by
  rw [stagedFrame, Memory.get_write, readRange_length, if_pos (by omega), readRange_getElem?, if_pos (by omega)]
  rfl

end

/-- A pixel lies in the slot of frame `f` exactly when `f` is its quotient by the capacity (rule R130). -/
theorem mem_slot_iff {c : Nat} (hpos : 0 < c) (f p : Nat) : (f * c ≤ p ∧ p < f * c + c) ↔ p / c = f := by
  rw [Nat.div_eq_iff hpos]
  omega

section
variable {frames : Nat → Pixel} {s t : State} {f : Nat}

/-- After a push the slot of the frame holds it; every other pixel is as before. -/
theorem stagedFrame_fpush_get (hidx : (stagedFrame frames f t).fidx.toNat = f) (hpos : 0 < t.capacity) (p : Nat) :
    (commandEffect .fpush (stagedFrame frames f t)).pixmem.get p =
      if p / t.capacity = f then some (frames p) else t.pixmem.get p := by
  rw [commandEffect_fpush_get, hidx, stagedFrame_capacity, stagedFrame_pixmem]
  simp only [← mem_slot_iff hpos]
  split
  next hslot => rw [stagedFrame_get frames f t (by omega), Nat.add_sub_of_le hslot.1]
  next => rfl

/-- An index whose slot lies in PIXMEM fits the register FIDX. -/
theorem stagedFrame_fidx_toNat (hwf : s.params.wf) (hpos : 0 < s.capacity)
    (hslot : (f + 1) * s.capacity ≤ s.params.np) : (stagedFrame frames f t).fidx.toNat = f := by
  obtain ⟨-, ⟨-, hnp⟩, -⟩ := hwf
  have hle := Nat.le_mul_of_pos_right (f + 1) hpos
  rw [stagedFrame_fidx, BitVec.toNat_ofNat]
  omega

/-- A new frame whose slot lies in PIXMEM passes the checks of FPUSH. -/
theorem PushedOnto.fpushCheck_stagedFrame (h : PushedOnto frames s t) (hpos : 0 < s.capacity)
    (hmax : s.capacity ≤ s.params.cmax) (hidx : (stagedFrame frames f t).fidx.toNat = f)
    (hslot : (f + 1) * s.capacity ≤ s.params.np) (habsent : f ∉ t.present) :
    fpushCheck (stagedFrame frames f t) = none := by
  apply fpushCheck_eq_none <;>
    simp only [hidx, stagedFrame_capacity, stagedFrame_params, stagedFrame_pcap, stagedFrame_present, h.capacity,
      h.params]
  exacts [hpos, hmax, h.latch, hslot, habsent]

theorem stagedFrame_fpush_present (hidx : (stagedFrame frames f t).fidx.toNat = f) :
    (commandEffect .fpush (stagedFrame frames f t)).present = insertFrame f t.present := by
  rw [commandEffect, setOlen_present, recordFrame_present, hidx, writePixels_present, stagedFrame_present]

/-- A completed push of frame `f` keeps what stands and adds the frame. -/
theorem PushedOnto.fpush (h : PushedOnto frames s t) (hpos : 0 < s.capacity)
    (hidx : (stagedFrame frames f t).fidx.toNat = f) :
    PushedOnto frames s (complete (commandEffect .fpush (stagedFrame frames f t))) where
  params := by rw [complete_params, commandEffect_params, stagedFrame_params, h.params]
  capacity := by rw [complete_capacity, commandEffect_capacity, stagedFrame_capacity, h.capacity]
  err := by rw [complete_err, commandEffect_err, stagedFrame_err, h.err]
  latch := .inr (by
    have hcap : (stagedFrame frames f t).capacity = s.capacity := h.capacity
    rw [complete_pcap, commandEffect_fpush_pcap_toNat (hcap ▸ h.latch), hcap])
  pixels := fun p hp => by
    rw [complete_pixmem, stagedFrame_fpush_get hidx (h.capacity ▸ hpos), h.capacity]
    rw [complete_present, stagedFrame_fpush_present hidx, mem_insertFrame] at hp
    split
    · rfl
    · next hne => exact h.pixels p (hp.resolve_left hne)

variable (hwf : s.params.wf) (hpos : 0 < s.capacity) (hmax : s.capacity ≤ s.params.cmax)
include hwf hpos hmax

/-- A push of a new frame whose slot lies in PIXMEM succeeds and makes that frame present. -/
theorem PushedOnto.pushFrame (h : PushedOnto frames s t) (hslot : (f + 1) * s.capacity ≤ s.params.np)
    (habsent : f ∉ t.present) : ∃ t', pushFrame frames f t = .next t' ∧ PushedOnto frames s t' ∧
      t'.present = insertFrame f t.present := by
  have hidx : (stagedFrame frames f t).fidx.toNat = f := stagedFrame_fidx_toNat hwf hpos hslot
  rw [pushFrame_eq]
  exact ⟨_, exec_of_none (h.fpushCheck_stagedFrame hpos hmax hidx hslot habsent), h.fpush hpos hidx,
    stagedFrame_fpush_present hidx⟩

/-- Pushes of different new frames whose slots lie in PIXMEM all succeed and make them present. -/
theorem PushedOnto.pushFrames {order : List Nat} (h : PushedOnto frames s t) (hnodup : order.Nodup)
    (hslots : ∀ f ∈ order, (f + 1) * s.capacity ≤ s.params.np) (habsent : ∀ f ∈ order, f ∉ t.present) :
    ∃ v, pushFrames frames order t = some v ∧ PushedOnto frames s v ∧
      ∀ g, g ∈ v.present ↔ g ∈ order ∨ g ∈ t.present := by
  induction order generalizing t with
  | nil => exact ⟨t, rfl, h, by simp⟩
  | cons f fs ih =>
    obtain ⟨hf, hfs⟩ := List.nodup_cons.mp hnodup
    obtain ⟨hslot, hslots⟩ := List.forall_mem_cons.mp hslots
    obtain ⟨hnew, habsent⟩ := List.forall_mem_cons.mp habsent
    obtain ⟨t', hpush, ht', hpresent⟩ := h.pushFrame hwf hpos hmax hslot hnew
    have hrest : ∀ g ∈ fs, g ∉ t'.present := fun g hg hmem => by
      rw [hpresent, mem_insertFrame] at hmem
      exact hmem.elim (fun heq => hf (heq ▸ hg)) (habsent g hg)
    obtain ⟨v, hv, hheld, hmem⟩ := ih ht' hfs hslots hrest
    refine ⟨v, ?_, hheld, fun g => ?_⟩
    · simp [Spec.pushFrames, hpush, ht'.err, hv]
    · rw [hmem, hpresent, mem_insertFrame, List.mem_cons]
      tauto

end

/-- Where the present frames are those below `n`, MERGE's `N` is `n`. -/
theorem mergeCount_of_present_iff_lt {s : State} {n : Nat} (h : ∀ g, g ∈ s.present ↔ g < n) : s.mergeCount = n := by
  refine mergeCount_eq ?_
  cases n with
  | zero => exact .inl ⟨rfl, List.eq_nil_iff_forall_not_mem.mpr fun g hg => absurd ((h g).mp hg) (Nat.not_lt_zero g)⟩
  | succ top => exact .inr ⟨top, rfl, (h top).mpr (Nat.lt_succ_self top), fun f hf => Nat.le_of_lt_succ ((h f).mp hf)⟩

/-- Settles O41: after the pushes the present frames are those below `N`, in whatever order they came, so MERGE finds
no gap and every pixel stands in a slot that holds its frame. -/
theorem splitPushMergeRestores : Obligations.SplitPushMergeRestores := by
  intro s n c order frames hwf hc hpos hmax hholds hleast hfit herr hperm
  change c = s.capacity at hc
  subst hc
  obtain rfl := splitCount_eq_of_least hpos hholds hleast
  have hmem : ∀ f, f ∈ order ↔ f < s.splitCount := fun f => hperm.mem_iff.trans List.mem_range
  have hslots : ∀ f ∈ order, (f + 1) * s.capacity ≤ s.params.np := fun f hf =>
    (Nat.mul_le_mul_right _ ((hmem f).mp hf)).trans hfit
  have hcleared := PushedOnto.of_cleared frames (s := s) (t := complete (commandEffect .split s))
    (by simp) (by simp) (by simpa using herr)
  obtain ⟨v, hpushed, hheld, hpresent⟩ :=
    hcleared.pushFrames hwf hpos hmax (hperm.nodup_iff.mpr List.nodup_range) hslots (fun _ _ => nofun)
  have hbelow : ∀ g, g ∈ v.present ↔ g < s.splitCount := fun g =>
    (hpresent g).trans ((or_iff_left nofun).trans (hmem g))
  have hcount := mergeCount_of_present_iff_lt hbelow
  have hmerge : commandCheck .merge v = none :=
    mergeCheck_eq_none (hheld.capacity ▸ hpos) (hheld.capacity ▸ hheld.latch) fun f hf => (hbelow f).mpr (hcount ▸ hf)
  have hpixels : ∀ p, p < s.splitCount * s.capacity → v.pixmem.get p = some (frames p) := fun p hp =>
    hheld.pixels p ((hbelow _).mpr (Nat.div_lt_of_lt_mul (Nat.mul_comm .. ▸ hp)))
  refine ⟨_, _, v, _, exec_of_none (splitCheck_eq_none hpos hfit), fun p hp => ?sequence, fun hread =>
    ⟨exec_of_none rfl, hpushed, exec_of_none hmerge, hheld.err, ?fcount, ?olen, fun p x hp hx => ?restored, hpixels⟩⟩
  case sequence => rw [complete_pixmem, commandEffect_split_get hpos, if_neg (by omega)]
  case fcount => rw [← hcount]; rfl
  case olen => rw [← hcount, ← hheld.capacity]; rfl
  case restored => exact (hpixels p hp).trans (congrArg some (hread p x hx))

end Sys2Proof.Machine
end

section
/-! PROOFS. Acceptance and the engine step (43_control.md rules R150, R151, R153): what a CMD write does, what runs when
the engine moves, and that every command ends. -/

namespace Sys2Proof.Machine

open Sys2Proof.Machine.Spec

section
variable {s : State} {w : Word} {i : Instr} {e : DecodeError}

/-! ### The engine step -/

theorem engineStep_of_ok (h : decode w = .ok i) : engineStep w s = exec i s := by rw [engineStep, h]

theorem engineStep_of_error (h : decode w = .error e) :
    engineStep w s = .next (raiseError w { code := .illegalCmd, info := w } s) := by rw [engineStep, h]

/-- When the engine moves, a command's word in flight is that command's meaning (rule R151). -/
theorem step_of_decode_ok (hw : s.inflight = some w) (ht : engineTurn s) (hd : decode w = .ok i) :
    step s = exec i s :=
  (step_engine hw ht).trans (engineStep_of_ok hd)

/-- With no access waiting there is none that is due before the engine step. -/
theorem engineTurn_of_host_nil (h : s.host = []) : engineTurn s := by
  intro a rest ha
  rw [h] at ha
  cases ha

theorem engineTurn_of_delay_zero (h : s.delay = 0) : engineTurn s := fun _ _ _ => .inr h

end

/-- Settles O4: the step is the engine's, which decodes the word. -/
theorem stepRunsTheDecodedCommand : Obligations.StepRunsTheDecodedCommand :=
  fun _ _ _ => step_of_decode_ok

/-- Settles O5: the step is the engine's, which raises ILLEGAL_CMD for an illegal word. -/
theorem illegalWordRaisesIllegalCmd : Obligations.IllegalWordRaisesIllegalCmd := by
  intro s w e hw ht hd
  exact ⟨_, (step_engine hw ht).trans (engineStep_of_error hd), rfl⟩

theorem withFetchWord_inflight (s : State) (i : Instr) :
    (s.withFetchWord 32 (encode i).toNat).inflight = some (encode i) := by
  rw [State.withFetchWord, Nat.mod_eq_of_lt (encode i).isLt, BitVec.ofNat_toNat, BitVec.setWidth_eq]
  rfl

/-- Settles O6: the placed word is the command's own, and with `delay = 0` the engine moves. -/
theorem placedWordIsRunByTheNextStep : Obligations.PlacedWordIsRunByTheNextStep :=
  fun s i => step_of_decode_ok (withFetchWord_inflight s i) (engineTurn_of_delay_zero rfl) (decode_encode i)

/-- Settles O29: a command is an error entry or a completion, and both clear BUSY. -/
theorem everyCommandEnds : Obligations.EveryCommandEnds := by
  intro i s
  obtain ⟨t, hexec, hidle, -, -⟩ := exec_ends i s
  exact ⟨t, hexec, hidle⟩

/-- Settles O16: NOP has no check and no effect. -/
theorem nopOnlyCompletes : Obligations.NopOnlyCompletes :=
  ⟨decode_encode .nop, fun _ => exec_answers_completed (i := .nop) rfl⟩

/-! ### Acceptance -/

section
variable {s : State} {w : Word} {rest : List HostInput}

theorem acceptCommand_of_err (h : s.err = true) : acceptCommand w s = s := if_pos h

theorem acceptCommand_of_noErr (h : s.err = false) : acceptCommand w s = { s with
    done := false, inflight := some w, delay := Config.freeDelay s.draws, draws := s.draws + 1 } :=
  if_neg (by simp [h])

theorem exempt_cmdWrite (p : Params) (w : Word) : exempt p (.write 4 0x010#26 w) = false := by
  rw [Bool.eq_false_iff, ne_eq, exempt_write_iff]
  simp [exemptWrites, Program.offsetOf]

/-- With no command in flight a CMD write is performed: its word is accepted or discarded (rule R150). -/
theorem step_cmdWrite (hi : s.inflight = none) (hh : s.host = .write 4 0x010#26 w :: rest) :
    step s = .next (reply .written (acceptCommand w { s with host := rest })) := by
  have hcmd := resolve_fixed s.params (r := .cmd) (by decide)
  rw [step_writeReg hcmd hh (.inl hi), delayAfter_of_idle hi]
  rfl

/-- With ERR = 0 the word is put in flight with DONE = 0; the delay until the engine step is a free value. -/
theorem step_cmdWrite_accepted (hi : s.inflight = none) (he : s.err = false)
    (hh : s.host = .write 4 0x010#26 w :: rest) : ∃ d : Nat, step s = .next { s with
      host := rest, replies := .written :: s.replies, done := false, inflight := some w,
      delay := d, draws := s.draws + 1 } := by
  refine ⟨Config.freeDelay s.draws, ?_⟩
  rw [step_cmdWrite hi hh, acceptCommand_of_noErr (s := { s with host := rest }) he]
  rfl

end

/-- Settles O7: an idle block performs the write, which ERR decides; a busy one holds it, since it is not exempt. -/
theorem cmdWriteIsAcceptedDiscardedOrHeld : Obligations.CmdWriteIsAcceptedDiscardedOrHeld := by
  intro s w rest hh
  refine ⟨fun hi he => ?discarded, fun hi he => step_cmdWrite_accepted hi he hh, fun w' hw => ?held⟩
  case discarded =>
    rw [step_cmdWrite hi hh, acceptCommand_of_err (s := { s with host := rest }) he]
    rfl
  case held =>
    refine step_engine hw fun a l ha => ?_
    obtain ⟨rfl, -⟩ := List.cons.inj (hh.symm.trans ha)
    exact .inl (exempt_cmdWrite _ w)

/-- Settles O8: the first step accepts the word, and with no access waiting the second is the engine's. -/
theorem issuedCommandIsRun : Obligations.IssuedCommandIsRun := by
  intro s i hi he hh
  obtain ⟨d, haccept⟩ := step_cmdWrite_accepted hi he hh
  refine ⟨d, ?_⟩
  rw [runSteps_succ haccept]
  obtain ⟨t, hexec, -⟩ := exec_ends i _
  rw [runSteps_succ ((step_of_decode_ok rfl (engineTurn_of_host_nil rfl) (decode_encode i)).trans hexec), hexec,
    runSteps_zero]

end Sys2Proof.Machine
end

section
/-! PROOFS. What register writes change (43_control.md rules R154 to R157, 70_reset_and_hazards.md rule R182): the
interrupt output, the write-one-to-clear bits of STATUS, the soft reset of an idle block, and the RW registers. -/

namespace Sys2Proof.Machine

open Sys2Proof.Machine.Spec

/-! ### The interrupt output -/

theorem readReg_irqEn_getLsbD (s : State) :
    (readReg s .irqEn).getLsbD 0 = s.doneIE ∧ (readReg s .irqEn).getLsbD 1 = s.errIE := by
  simp only [readReg, State.irqEnWord, BitVec.getLsbD_append]
  simp

/-- Settles O47: each of the four bits reads its field. -/
theorem interruptIsTheLevelOfItsBits : Obligations.InterruptIsTheLevelOfItsBits := by
  intro s
  obtain ⟨-, hdone, herr, -⟩ := statusWordLayout s
  obtain ⟨hdoneIE, herrIE⟩ := readReg_irqEn_getLsbD s
  rw [hdone, herr, hdoneIE, herrIE, State.irq]

/-! ### STATUS -/

/-- What a write of STATUS does to each field (rules R155, R165). -/
theorem writeStatus_eq (v : Word) (s : State) : writeStatus v s = { s with
    done := if v.getLsbD 1 = true then false else s.done
    err := if v.getLsbD 2 = true then false else s.err
    errCode := if v.getLsbD 2 = true then 0#8 else s.errCode
    errCmd := if v.getLsbD 2 = true then 0#8 else s.errCmd
    errInfo := if v.getLsbD 2 = true then 0#32 else s.errInfo } := by
  unfold writeStatus
  split <;> split <;> rfl

/-- Settles O48: the write resolves to STATUS, and `writeStatus_eq` is its whole effect. -/
theorem statusWriteClearsDoneAndErr : Obligations.StatusWriteClearsDoneAndErr := by
  intro s v rest hh ht
  have hstatus := resolve_fixed s.params (r := .status) (by decide)
  rw [step_writeReg hstatus hh ht, writeReg, writeStatus_eq]
  rfl

/-! ### CTRL -/

/-- With no command in flight a soft reset abandons none (rules R182, R183). -/
theorem softReset_of_idle {s : State} (h : s.inflight = none) : softReset s = resetRegisters s := by
  rw [softReset, inflightDestination, h]
  rfl

/-- Settles O59: the write resolves to CTRL; bit 0 decides between the soft reset and no effect. -/
theorem softResetWhenIdle : Obligations.SoftResetWhenIdle := by
  intro s v rest hh
  have hctrl := resolve_fixed s.params (r := .ctrl) (by decide)
  refine ⟨fun hi hv => ?reset, fun ht hv => ?ignored⟩
  case reset =>
    rw [step_writeReg hctrl hh (.inl hi), writeReg, if_pos hv,
      softReset_of_idle (s := { s with host := rest, delay := delayAfter s }) hi]
    rfl
  case ignored =>
    rw [step_writeReg hctrl hh ht, writeReg, if_neg (hv ▸ Bool.false_ne_true)]
    rfl

/-! ### The RW registers -/

section
variable {r r' : Reg} {mask : Word}

/-- A write of an RW register other than CTRL changes the fields of those registers at most (rule R157). -/
theorem writeReg_frame (h : storedBits r = some mask) (v : Word) (s : State) : writeReg v s r = { s with
    doneIE := (writeReg v s r).doneIE, errIE := (writeReg v s r).errIE
    src := (writeReg v s r).src, dst := (writeReg v s r).dst, len := (writeReg v s r).len
    width := (writeReg v s r).width, height := (writeReg v s r).height, fill := (writeReg v s r).fill
    fidx := (writeReg v s r).fidx, keylen := (writeReg v s r).keylen, kphase := (writeReg v s r).kphase
    key := (writeReg v s r).key } := by
  cases r with
  | id | ctrl | status | cmd | olen | fcount | errInfo | paramNB | paramNP | paramCMAX | paramKMAX => nomatch h
  | irqEn | src | dst | len | width | height | fill | fidx | keylen | kphase | key => rfl

/-- The low `n` bits of a word are the word less the bits above them. -/
theorem setWidth_extractLsb'_zero (v : Word) (n : Nat) :
    (v.extractLsb' 0 n).setWidth 32 = v &&& (BitVec.allOnes n).setWidth 32 := by
  ext j hj
  simp [hj, Bool.and_comm]

/-- The two bits IRQ_EN stores, as one field (rule R25). -/
theorem ofBool_append_ofBool_eq_extractLsb' (v : Word) :
    BitVec.ofBool (v.getLsbD 1) ++ BitVec.ofBool (v.getLsbD 0) = v.extractLsb' 0 2 := by
  ext j hj
  obtain rfl | rfl : j = 0 ∨ j = 1 := by omega
  all_goals
    simp only [BitVec.getElem_append]
    simp

/-- A written register reads the value less its reserved bits (rule R157). -/
theorem readReg_writeReg_same {v : Word} {s : State} (h : storedBits r = some mask)
    (hkey : ∀ n, r = .key n → n < s.key.length) : readReg (writeReg v s r) r = v &&& mask := by
  cases r with
  | id | ctrl | status | cmd | olen | fcount | errInfo | paramNB | paramNP | paramCMAX | paramKMAX => nomatch h
  | src | dst | len | fidx =>
    obtain rfl := Option.some.inj h
    exact BitVec.and_allOnes.symm
  | width | height | keylen | kphase =>
    obtain rfl := Option.some.inj h
    exact setWidth_extractLsb'_zero v 16
  | fill =>
    obtain rfl := Option.some.inj h
    exact setWidth_extractLsb'_zero v 24
  | irqEn =>
    obtain rfl := Option.some.inj h
    calc 0#30 ++ BitVec.ofBool (v.getLsbD 1) ++ BitVec.ofBool (v.getLsbD 0)
      _ = (0#30 ++ v.extractLsb' 0 2).cast _ := by rw [← ofBool_append_ofBool_eq_extractLsb', BitVec.append_assoc]
      _ = (v.extractLsb' 0 2).setWidth 32 := (BitVec.setWidth_eq_append (by decide)).symm
      _ = v &&& 0x00000003#32 := setWidth_extractLsb'_zero v 2
  | key n =>
    obtain rfl := Option.some.inj h
    have hread : readReg (writeReg v s (.key n)) (.key n) = v := by simp [readReg, writeReg, hkey n rfl]
    exact hread.trans BitVec.and_allOnes.symm

/-- A write of an RW register other than CTRL leaves what every other register reads (rule R157). -/
theorem readReg_writeReg_ne {v : Word} {s : State} (h : storedBits r = some mask) (hne : r' ≠ r) :
    readReg (writeReg v s r) r' = readReg s r' := by
  cases r with
  | id | ctrl | status | cmd | olen | fcount | errInfo | paramNB | paramNP | paramCMAX | paramKMAX => nomatch h
  | irqEn | src | dst | len | width | height | fill | fidx | keylen | kphase =>
    cases r' <;> simp [readReg, writeReg, State.statusWord, State.irqEnWord, State.busy] at hne ⊢
  | key n =>
    cases r' with
    | key m =>
      have hmn : n ≠ m := fun heq => hne (heq ▸ rfl)
      simp [readReg, writeReg, List.getElem?_set_ne hmn]
    | _ => rfl

/-- What a register reads does not depend on the host's accesses and the model's `delay` (log 3, 4). -/
theorem readReg_ofLists (s : State) (host : List HostInput) (delay : Nat) (r : Reg) :
    readReg { s with host := host, delay := delay } r = readReg s r := by
  cases r <;> rfl

theorem readReg_reply (a : Reply) (s : State) (r : Reg) : readReg (reply a s) r = readReg s r := by
  cases r <;> rfl

/-- Every register is reached at its offset, a key register if it exists (rule R21). -/
theorem resolve_offsetOf {p : Params} (hp : p.wf) (hkey : ∀ n, r = .key n → n < p.kmax / 32) :
    resolve p 4 (Program.offsetOf r) = .ok (.reg r) := by
  cases r with
  | key n => exact resolve_key hp (hkey n rfl)
  | _ => exact resolve_register p _ nofun

end

/-- Settles O50: the write resolves to its register, which reads back while the other registers and fields stay. -/
theorem registerWriteReadsBack : Obligations.RegisterWriteReadsBack := by
  intro s r mask v rest hp hlen ht hr hkey hh
  have hin : ∀ n, r = .key n → n < s.key.length := hlen ▸ hkey
  refine ⟨_, step_writeReg (resolve_offsetOf hp hkey) hh ht, ?same, fun r' hne => ?other, ?frame⟩
  case same => exact (readReg_reply ..).trans (readReg_writeReg_same hr hin)
  case other => rw [readReg_reply, readReg_writeReg_ne hr hne, readReg_ofLists]
  case frame =>
    rw [writeReg_frame hr]
    exact ⟨rfl, rfl, rfl, rfl, rfl, rfl, rfl, rfl, rfl, rfl, rfl⟩

end Sys2Proof.Machine
end

section
/-! PROOFS. Errors (60_exceptions.md): which error codes a command's checks can raise, what a command leaves of STATUS
and ERRINFO (rules R160, R163), and what can happen to a pending error (rules R164 to R166). -/

namespace Sys2Proof.Machine

open Sys2Proof.Machine.Spec

/-! ### The codes of the checks (rule R161) -/

section
variable {s : State} {e : CmdError}

theorem cipherCheck_code {needKey : Bool} {olen : Nat} (h : cipherCheck needKey olen s = some e) :
    e.code = .keyInvalid ∨ e.code = .range ∨ e.code = .overlap := by
  unfold cipherCheck at h
  split_ifs at h <;> cases h <;> simp

theorem rasterCheck_code {srcSize dstSize : Nat} (h : rasterCheck srcSize dstSize s = some e) : e.code = .range := by
  unfold rasterCheck at h
  split_ifs at h <;> cases h <;> rfl

theorem splitCheck_code (h : splitCheck s = some e) : e.code = .badGeometry ∨ e.code = .range := by
  unfold splitCheck at h
  split_ifs at h <;> cases h <;> simp

theorem fpushCheck_code (h : fpushCheck s = some e) :
    e.code = .badGeometry ∨ e.code = .frameIndexRange ∨ e.code = .duplicateFrame := by
  unfold fpushCheck at h
  split_ifs at h <;> cases h <;> simp

theorem mergeCheck_code (h : mergeCheck s = some e) : e.code = .badGeometry ∨ e.code = .missingFrame := by
  unfold mergeCheck at h
  repeat' split at h
  all_goals cases h
  all_goals simp

/-- ILLEGAL_CMD is an error of the word, never of a command's checks (rules R151, R161). -/
theorem commandCheck_code_ne_illegalCmd {i : Instr} (h : commandCheck i s = some e) : e.code ≠ .illegalCmd := by
  cases i with
  | nop | fclr => nomatch h
  | sub | xor | enc | dec => rcases cipherCheck_code h with hc | hc | hc <;> simp [hc]
  | b2p | p2b => simp [rasterCheck_code h]
  | split => rcases splitCheck_code h with hc | hc <;> simp [hc]
  | fpush => rcases fpushCheck_code h with hc | hc | hc <;> simp [hc]
  | merge => rcases mergeCheck_code h with hc | hc <;> simp [hc]

end

theorem ErrorCode.two_le_byte {c : ErrorCode} (h : c ≠ .illegalCmd) : 2 ≤ c.byte.toNat := by
  cases c with
  | illegalCmd => exact absurd rfl h
  | _ => decide

/-- Settles O30: a failing check is the error entry with its code, and a command's effect writes no error field. -/
theorem commandErrorsArePrecise : Obligations.CommandErrorsArePrecise := by
  intro i s t h
  cases hc : commandCheck i s with
  | some e =>
    obtain ⟨u, hu, hentry⟩ := exec_answers_errorEntry hc
    obtain rfl := Host.Outcome.next.inj (hu.symm.trans h)
    exact .inl ⟨_, _, ErrorCode.two_le_byte (commandCheck_code_ne_illegalCmd hc), e.code.byte_bounds.2, hentry⟩
  | none =>
    obtain rfl := Host.Outcome.next.inj ((exec_of_none hc).symm.trans h)
    exact .inr (by simp)

/-! ### A pending error discards the commands written (rule R164) -/

/-- Settles O9: every step discards the CMD write at the head and is answered. -/
theorem pendingErrorDiscardsEveryCommand : Obligations.PendingErrorDiscardsEveryCommand := by
  intro ws
  induction ws with
  | nil =>
    intro s _ _ hh
    exact congrArg (fun host => Host.Outcome.next { s with host := host }) hh
  | cons w ws ih =>
    intro s hi he hh
    obtain ⟨hdiscard, -⟩ := cmdWriteIsAcceptedDiscardedOrHeld s w _ hh
    rw [List.length_cons, runSteps_succ (hdiscard hi he), List.replicate_succ', List.append_assoc]
    exact ih _ hi he rfl

/-! ### A pending error stays until it is cleared (rules R165, R166) -/

/-- No command is in flight in `t`, and the error pending in `s` is pending in `t` as it was, or it has ended, which
only happens where `cleared` holds. -/
def ErrorStaysUnless (cleared : Prop) (s t : State) : Prop :=
  t.inflight = none ∧
  ((t.err = true ∧ t.errCode = s.errCode ∧ t.errCmd = s.errCmd ∧ t.errInfo = s.errInfo) ∨ (t.err = false ∧ cleared))

section
variable {s t : State} {cleared cleared' : Prop}

/-- The error stays where the fields it speaks of are as before. -/
theorem ErrorStaysUnless.stays (hi : s.inflight = none) (he : s.err = true)
    (hinflight : t.inflight = s.inflight := by rfl) (herr : t.err = s.err := by rfl)
    (hcode : t.errCode = s.errCode := by rfl) (hcmd : t.errCmd = s.errCmd := by rfl)
    (hinfo : t.errInfo = s.errInfo := by rfl) : ErrorStaysUnless cleared s t :=
  ⟨hinflight.trans hi, .inl ⟨herr.trans he, hcode, hcmd, hinfo⟩⟩

theorem ErrorStaysUnless.imp (h : ErrorStaysUnless cleared s t) (hc : cleared → cleared') :
    ErrorStaysUnless cleared' s t :=
  ⟨h.1, h.2.imp_right fun ⟨herr, hcleared⟩ => ⟨herr, hc hcleared⟩⟩

variable (hi : s.inflight = none) (he : s.err = true)
include hi he

/-- A register write ends a pending error only as the error clear of STATUS or the soft reset of CTRL; a command written
to CMD is discarded, so none comes to be in flight (rules R164, R165, R182). -/
theorem writeReg_errorStaysUnless (v : Word) (r : Reg) :
    ErrorStaysUnless (r = .status ∧ v.getLsbD 2 = true ∨ r = .ctrl ∧ v.getLsbD 0 = true) s (writeReg v s r) := by
  cases r
  case status =>
    rw [writeReg, writeStatus_eq]
    by_cases hv : v.getLsbD 2 = true
    · exact ⟨hi, .inr ⟨if_pos hv, .inl ⟨rfl, hv⟩⟩⟩
    · exact .stays hi he rfl (if_neg hv) (if_neg hv) (if_neg hv) (if_neg hv)
  case ctrl =>
    by_cases hv : v.getLsbD 0 = true
    · rw [writeReg, if_pos hv]
      exact ⟨rfl, .inr ⟨rfl, .inr ⟨rfl, hv⟩⟩⟩
    · rw [writeReg, if_neg hv]
      exact .stays hi he
  case cmd =>
    rw [writeReg, acceptCommand_of_err he]
    exact .stays hi he
  all_goals exact .stays hi he

/-- A write that reaches its element ends a pending error only as one of the two writes of rule R165. -/
theorem writePlace_errorStaysUnless {p : Params} {width : Nat} {off : Offset} {place : Place} (v : Word)
    (hr : resolve p width off = .ok place) :
    ErrorStaysUnless (clearsError (.write width off v)) s (writePlace v s place) := by
  cases place with
  | reg r =>
    refine (writeReg_errorStaysUnless hi he v r).imp ?_
    rintro (⟨rfl, hv⟩ | ⟨rfl, hv⟩)
    · obtain ⟨rfl, rfl⟩ := (resolve_eq_fixed_iff (by decide)).mp hr
      exact .inl ⟨v, rfl, hv⟩
    · obtain ⟨rfl, rfl⟩ := (resolve_eq_fixed_iff (by decide)).mp hr
      exact .inr (.inl ⟨v, rfl, hv⟩)
  | bitWord | pixel | staged => exact .stays hi he

/-- A performed input ends a pending error only if it is one of those of rule R165 or the power-on reset. -/
theorem hostInput_errorStaysUnless {a : HostInput} (h : hostInput a s = .next t) :
    ErrorStaysUnless (clearsError a) s t := by
  obtain ⟨_, _, place, rfl, -, rfl⟩ | ⟨_, _, v, _, rfl, hr, rfl⟩ | ⟨rfl, rfl⟩ | ⟨rfl, rfl⟩ := hostInput_cases h
  · cases place <;> exact .stays hi he
  · exact writePlace_errorStaysUnless hi he v hr
  · exact ⟨rfl, .inr ⟨rfl, .inr (.inr rfl)⟩⟩
  · rw [waitRound_eq]
    exact .stays hi he

end

/-- No command is in flight while an error is pending (rule R49). -/
theorem State.StatusOk.inflight_of_err {s : State} (h : s.StatusOk) (he : s.err = true) : s.inflight = none := by
  by_contra hbusy
  obtain ⟨-, hno⟩ := h.busy (Option.isSome_iff_ne_none.mpr hbusy)
  exact Bool.false_ne_true (hno.symm.trans he)

/-- Settles O10: the block is idle, so the step performs the input at the head, if there is one. -/
theorem pendingErrorStaysUntilItIsCleared : Obligations.PendingErrorStaysUntilItIsCleared := by
  intro s t h he ht
  have hi := h.statusOk.inflight_of_err he
  change ErrorStaysUnless (∃ a rest, s.host = a :: rest ∧ clearsError a) s t
  obtain ⟨-, -, rfl⟩ | ⟨a, rest, -, hh, ha⟩ | ⟨w, -, -, hw, -⟩ | ⟨w, hw, -⟩ := step_cases ht
  · exact .stays hi he
  · exact (hostInput_errorStaysUnless (s := { s with host := rest }) hi he ha).imp fun hc => ⟨a, rest, hh, hc⟩
  · nomatch hi.symm.trans hw
  · nomatch hi.symm.trans hw

end Sys2Proof.Machine
end

section
/-! PROOFS. Resets, the idle block and the bound on a command in flight (70_reset_and_hazards.md rules R180 to R183,
R189): the power-on state, the steps before the engine moves, and the elements that a soft reset during a command leaves
unspecified. -/

namespace Sys2Proof.Machine

open Sys2Proof.Machine.Spec

/-! ### The idle block and the power-on reset -/

/-- Settles O15: no word is in flight, so the step looks for an input, and there is none. -/
theorem idleBlockDoesNothing : Obligations.IdleBlockDoesNothing := by
  intro s hi hh
  simp only [step, hi, idleStep, hh]

/-- Settles O58: each register reads its field of `State.powerOn`, and the reset is performed when its turn comes. -/
theorem powerOnState : Obligations.PowerOnState := by
  refine ⟨fun p r => ⟨?register, rfl, rfl, rfl, rfl, fun _ => ⟨rfl, rfl, rfl⟩⟩, fun s rest hh ht => ?step⟩
  case register =>
    cases r with
    | key n => simp [readReg, State.powerOn]
    | status => simp [readReg, State.statusWord, State.busy, State.powerOn]
    | irqEn => simp [readReg, State.irqEnWord, State.powerOn]
    | _ => rfl
  case step => exact step_performs hh ht

/-! ### A command in flight ends (rule R189) -/

section
variable {s : State} {w : Word}

/-- What an exempt input may do to the word in flight: it abandons the word, or leaves it and the model's `delay` as
they are. -/
def EndsOrKeepsFlight (s t : State) : Prop :=
  t.inflight = none ∨ (t.inflight = s.inflight ∧ t.delay = s.delay)

/-- A write of CTRL, STATUS or IRQ_EN accepts no command. -/
theorem writeReg_endsOrKeepsFlight {r : Reg} (hr : r ∈ exemptWrites) (v : Word) (s : State) :
    EndsOrKeepsFlight s (writeReg v s r) := by
  simp only [exemptWrites, List.mem_cons, List.not_mem_nil, or_false] at hr
  rcases hr with rfl | rfl | rfl
  · rw [writeReg]
    split
    · exact .inl rfl
    · exact .inr ⟨rfl, rfl⟩
  · rw [writeReg, writeStatus_eq]
    exact .inr ⟨rfl, rfl⟩
  · exact .inr ⟨rfl, rfl⟩

/-- An exempt input reaches its register, so it is no bus error (rule R71). -/
theorem hostInput_of_exempt {a : HostInput} (he : exempt s.params a = true) :
    ∃ t, hostInput a s = .next t ∧ EndsOrKeepsFlight s t := by
  cases a with
  | read width off =>
    obtain ⟨r, -, hr⟩ :=
      (exists_resolve_mem_iff (p := s.params) exemptReads_subset_fixedRegisters).mpr (exempt_read_iff.mp he)
    exact ⟨reply (.data (readReg s r)) s, by simp only [hostInput, hr]; rfl, .inr ⟨rfl, rfl⟩⟩
  | write width off v =>
    obtain ⟨r, hmem, hr⟩ :=
      (exists_resolve_mem_iff (p := s.params) exemptWrites_subset_fixedRegisters).mpr (exempt_write_iff.mp he)
    exact ⟨reply .written (writeReg v s r), by simp only [hostInput, hr]; rfl, writeReg_endsOrKeepsFlight hmem v s⟩
  | powerOn => exact ⟨_, rfl, .inl rfl⟩
  | wait => exact ⟨_, rfl, by rw [waitRound_eq]; exact .inr ⟨rfl, rfl⟩⟩

/-- A step with a word in flight ends it, or performs an exempt input that was due and so takes one from `delay`. -/
theorem step_of_busy (hw : s.inflight = some w) :
    ∃ t, step s = .next t ∧ (t.inflight = none ∨ (t.inflight = some w ∧ t.delay < s.delay)) := by
  by_cases hturn : engineTurn s
  · obtain ⟨t, ht, hends, -⟩ := engineStep_ends w s
    exact ⟨t, (step_engine hw hturn).trans ht, .inl hends⟩
  · simp only [engineTurn, not_forall, not_or, Bool.not_eq_false] at hturn
    obtain ⟨a, rest, hh, he, hdue⟩ := hturn
    obtain ⟨t, ht, hflight⟩ := hostInput_of_exempt (s := { s with host := rest, delay := s.delay - 1 }) he
    refine ⟨t, (step_exempt hw hh he (Nat.pos_of_ne_zero hdue)).trans ht, hflight.imp_right ?_⟩
    exact fun ⟨hkeeps, hdelay⟩ => ⟨hkeeps.trans hw, hdelay ▸ Nat.sub_one_lt hdue⟩

end

/-- Settles O13, by induction on the number of exempt accesses that may still come before the engine step. -/
theorem commandInFlightEnds : Obligations.CommandInFlightEnds := by
  intro s w hw
  induction hd : s.delay using Nat.strong_induction_on generalizing s with
  | _ d ih =>
    subst hd
    obtain ⟨t, ht, hends | ⟨hkeeps, hless⟩⟩ := step_of_busy hw
    · exact ⟨1, t, by omega, (runSteps_succ ht).trans (runSteps_zero t), hends⟩
    · obtain ⟨k, u, hk, hu, hends⟩ := ih t.delay hless t hkeeps rfl
      exact ⟨k + 1, u, by omega, (runSteps_succ ht).trans hu, hends⟩

/-! ### The elements of a destination become unspecified (rule R183) -/

/-- Bit `a` of BITMEM is among the elements of a destination. -/
def Dest.HasBit : Dest → Nat → Prop
  | .bits base n, a => base ≤ a ∧ a < base + n
  | .none, _ | .pixels _ _, _ => False

/-- Pixel `p` of PIXMEM is among the elements of a destination. -/
def Dest.HasPixel : Dest → Nat → Prop
  | .pixels base n, p => base ≤ p ∧ p < base + n
  | .none, _ | .bits _ _, _ => False

section
variable {d : Dest} {s : State} {a p : Nat}

theorem forgetDest_bitmem_of_hasBit (h : d.HasBit a) : (forgetDest d s).bitmem.get a = none := by
  cases d with
  | bits base n => exact (Memory.get_forget ..).trans (if_pos h)
  | none | pixels => exact h.elim

theorem forgetDest_bitmem_of_not_hasBit (h : ¬ d.HasBit a) : (forgetDest d s).bitmem.get a = s.bitmem.get a := by
  cases d with
  | bits base n => exact (Memory.get_forget ..).trans (if_neg h)
  | none | pixels => rfl

theorem forgetDest_pixmem_of_hasPixel (h : d.HasPixel p) : (forgetDest d s).pixmem.get p = none := by
  cases d with
  | pixels base n => exact (Memory.get_forget ..).trans (if_pos h)
  | none | bits => exact h.elim

theorem forgetDest_pixmem_of_not_hasPixel (h : ¬ d.HasPixel p) :
    (forgetDest d s).pixmem.get p = s.pixmem.get p := by
  cases d with
  | pixels base n => exact (Memory.get_forget ..).trans (if_neg h)
  | none | bits => rfl

end

/-- A soft reset is the power-on state but for BITMEM, PIXMEM and STAGE, of which it leaves STAGE alone, and for the
host's side (rules R182, R183). -/
theorem softReset_eq (s : State) : softReset s = { State.powerOn s.params with
    bitmem := (forgetDest (inflightDestination s) s).bitmem
    pixmem := (forgetDest (inflightDestination s) s).pixmem
    stage := s.stage, draws := s.draws, host := s.host, replies := s.replies } := by
  rw [softReset]
  cases inflightDestination s <;> rfl

/-! ### The destination of a command is what its completion writes (rules R69, R183) -/

/-- The destination elements of a command whose checks pass. -/
def destinationRange : Instr → State → Dest
  | .sub, s | .enc, s | .dec, s => .bits s.dst.toNat s.evenLen
  | .xor, s | .p2b, s => .bits s.dst.toNat s.len.toNat
  | .b2p, s => .pixels s.dst.toNat s.len.toNat
  | .split, s => .pixels s.len.toNat (s.splitCount * s.capacity - s.len.toNat)
  | .fpush, s => .pixels (s.frameSlot s.fidx.toNat) s.capacity
  | .nop, _ | .merge, _ | .fclr, _ => .none

section
variable {i : Instr} {s : State}

theorem destination_eq (i : Instr) (s : State) :
    destination i s = if commandCheck i s = none then destinationRange i s else .none := by
  cases i
  case nop | merge | fclr => exact (ite_self _).symm
  all_goals rfl

/-- A command that writes BITMEM names `OLEN` bits from `DST` on. -/
theorem destinationRange_of_writesBitmem (hb : writesBitmem i = true) :
    destinationRange i s = .bits s.dst.toNat (commandEffect i s).olen.toNat := by
  have heven := evenLen_le s
  cases i
  case sub | enc | dec => rw [commandEffect, setOlen_olen_toNat heven]; rfl
  case xor | p2b => rw [commandEffect, setOlen_olen_toNat le_rfl]; rfl
  all_goals nomatch hb

/-- The other commands name no bit. -/
theorem not_hasBit_of_not_writesBitmem (hb : writesBitmem i = false) (a : Nat) :
    ¬ (destinationRange i s).HasBit a := by
  cases i
  case sub | xor | enc | dec | p2b => nomatch hb
  all_goals exact id

theorem hasBit_destinationRange_iff (a : Nat) :
    (destinationRange i s).HasBit a ↔ destinationBit i s (complete (commandEffect i s)) a := by
  cases hb : writesBitmem i with
  | true => simp [destinationRange_of_writesBitmem hb, Dest.HasBit, destinationBit, hb]
  | false => simp [not_hasBit_of_not_writesBitmem hb, destinationBit, hb]

/-- The length SPLIT answers is exact: its frames lie in PIXMEM (rules R11, R131). -/
theorem commandEffect_split_olen_toNat (hp : s.params.wf) (hc : splitCheck s = none) :
    (commandEffect .split s).olen.toNat = s.splitCount * s.capacity := by
  obtain ⟨-, -, hfit⟩ := splitCheck_none hc
  obtain ⟨-, ⟨-, hnp⟩, -⟩ := hp
  rw [commandEffect, setFcount_olen, setOlen_olen, BitVec.toNat_ofNat]
  omega

theorem hasPixel_destinationRange_iff (hp : s.params.wf) (hc : commandCheck i s = none) (p : Nat) :
    (destinationRange i s).HasPixel p ↔ destinationPixel i s (complete (commandEffect i s)) p := by
  cases i
  case split =>
    obtain ⟨hpos, -, -⟩ := splitCheck_none hc
    have hend := Nat.add_sub_of_le (len_le_splitCount hpos)
    simp [destinationRange, Dest.HasPixel, destinationPixel, hend, commandEffect_split_olen_toNat hp hc]
  case b2p | fpush => simp [destinationRange, Dest.HasPixel, destinationPixel, State.frameSlot]
  all_goals simp [destinationRange, Dest.HasPixel, destinationPixel]

end

/-! ### The destination of the word in flight -/

section
variable {s u : State} {w : Word}

/-- The destination of the word in flight against its engine step: none where the step is an error entry, which leaves
DONE as it is; the command's range where it completes. -/
theorem inflightDestination_cases (hw : s.inflight = some w) (hu : engineStep w s = .next u) :
    (inflightDestination s = .none ∧ u.done = s.done) ∨
    (∃ i, decode w = .ok i ∧ commandCheck i s = none ∧ inflightDestination s = destinationRange i s ∧
      u = complete (commandEffect i s)) := by
  obtain ⟨i, hi, hexec⟩ | ⟨⟨e, he⟩, rfl⟩ := engineStep_cases hu
  · have hdest : inflightDestination s = destination i s := by simp only [inflightDestination, hw, hi]
    rw [hdest, destination_eq]
    obtain ⟨e, hc, rfl⟩ | ⟨hc, rfl⟩ := exec_cases hexec
    · exact .inl ⟨if_neg (by simp [hc]), rfl⟩
    · exact .inr ⟨i, hi, hc, if_pos hc, rfl⟩
  · exact .inl ⟨by simp only [inflightDestination, hw, he], rfl⟩

/-- A command that has not completed names no element. -/
theorem not_abandoned_of_not_done (hd : u.done = false) (a : Nat) :
    ¬ abandonedBit w s u a ∧ ¬ abandonedPixel w s u a :=
  ⟨fun ⟨_, _, hdone, _⟩ => Bool.false_ne_true (hd.symm.trans hdone),
    fun ⟨_, _, hdone, _⟩ => Bool.false_ne_true (hd.symm.trans hdone)⟩

variable (hw : s.inflight = some w) (hd : s.done = false) (hu : engineStep w s = .next u)
include hw hd hu

theorem hasBit_inflightDestination_iff (a : Nat) : (inflightDestination s).HasBit a ↔ abandonedBit w s u a := by
  obtain ⟨hnone, hdone⟩ | ⟨i, hi, -, hrange, rfl⟩ := inflightDestination_cases hw hu
  · rw [hnone]
    exact iff_of_false id (not_abandoned_of_not_done (hdone.trans hd) a).1
  · simp [hrange, hasBit_destinationRange_iff, abandonedBit, hi]

theorem hasPixel_inflightDestination_iff (hp : s.params.wf) (p : Nat) :
    (inflightDestination s).HasPixel p ↔ abandonedPixel w s u p := by
  obtain ⟨hnone, hdone⟩ | ⟨i, hi, hc, hrange, rfl⟩ := inflightDestination_cases hw hu
  · rw [hnone]
    exact iff_of_false id (not_abandoned_of_not_done (hdone.trans hd) p).2
  · simp [hrange, hasPixel_destinationRange_iff hp hc, abandonedPixel, hi]

end

/-- A destination does not depend on the host's accesses and the model's `delay` (log 3, 4). -/
theorem inflightDestination_ofLists (s : State) (host : List HostInput) (delay : Nat) :
    inflightDestination { s with host := host, delay := delay } = inflightDestination s := by
  have hdest : ∀ i, destination i { s with host := host, delay := delay } = destination i s := by
    intro i
    cases i <;> rfl
  simp only [inflightDestination, hdest]

theorem exempt_ctrlWrite (p : Params) (v : Word) : exempt p (.write 4 0x004#26 v) = true :=
  exempt_write_iff.mpr ⟨rfl, by decide⟩

/-- Settles O60: the CTRL write is exempt and due, and the elements it makes unspecified are those the engine step would
have written. -/
theorem softResetDuringACommand : Obligations.SoftResetDuringACommand := by
  intro s w v rest hp hw hd hdelay hh hv
  obtain ⟨u, hu, -⟩ := engineStep_ends w s
  have hctrl := resolve_fixed s.params (r := .ctrl) (by decide)
  have hstep := step_writeReg hctrl hh (.inr ⟨exempt_ctrlWrite _ v, hdelay⟩)
  rw [writeReg, if_pos hv, softReset_eq, inflightDestination_ofLists] at hstep
  refine ⟨u, _, _, hu, hstep, fun a => ?bits, fun p => ?pixels⟩
  case bits =>
    rw [← hasBit_inflightDestination_iff hw hd hu]
    exact ⟨forgetDest_bitmem_of_hasBit, forgetDest_bitmem_of_not_hasBit⟩
  case pixels =>
    rw [← hasPixel_inflightDestination_iff hw hd hu hp]
    exact ⟨forgetDest_pixmem_of_hasPixel, forgetDest_pixmem_of_not_hasPixel⟩

end Sys2Proof.Machine
end
